-- ==== Sys2Proof/Word.lean ====
section
/-! DEFINITION. The words and the closed sets of names of the Meccanoid bus master: bytes, slot
indices, groups of four, and the enumerations of `10_state.md`. -/

namespace Sys2Proof

/-- Every transfer and every data field of the register file is one unsigned byte (R5, R45). -/
abbrev Byte := BitVec 8

/-- A slot index, 2 bits, 0 to 3 (R3, R29). -/
abbrev SlotIx := Fin 4

/-- Four like things, one for each slot: the register file and the frame registers `out[0..3]`
(R10, R24). -/
structure Quad (α : Type) where
  q0 : α
  q1 : α
  q2 : α
  q3 : α
  deriving DecidableEq, Repr

/-- The entry of slot `k`. -/
def Quad.get {α : Type} (q : Quad α) : SlotIx → α
  | 0 => q.q0
  | 1 => q.q1
  | 2 => q.q2
  | 3 => q.q3

/-- The group with the entry of slot `k` replaced. -/
def Quad.set {α : Type} (q : Quad α) (k : SlotIx) (a : α) : Quad α :=
  match k with
  | 0 => { q with q0 := a }
  | 1 => { q with q1 := a }
  | 2 => { q with q2 := a }
  | 3 => { q with q3 := a }

/-- A slot's place in its lifecycle, `connectionState` (R10, R11). -/
inductive Conn where
  | disconnected
  | discovered
  | typeKnown
  deriving DecidableEq, Repr

/-- The negotiated module type, `moduleType` (R10, R12). -/
inductive ModuleType where
  | none
  | servo
  | led
  deriving DecidableEq, Repr

/-- A level of the line (R23, R91). -/
inductive Level where
  | low
  | high
  deriving DecidableEq, Repr

/-- The line's direction mode: `output` while sending, `input` while receiving (R22). -/
inductive Dir where
  | output
  | input
  deriving DecidableEq, Repr

/-- The sequencer's position inside `update()`, in the order the cycle goes through it (R21). -/
inductive Phase where
  | idle
  | hdr
  | out0
  | out1
  | out2
  | out3
  | cks
  | rx
  | dispatch
  deriving DecidableEq, Repr

end Sys2Proof
end

