-- ==== Sys2Proof/Config.lean ====
section
/-! DEFINITION. What an implementation fixes (the parameter table of `00_scope.md`, R3 and R4) and the
free values the spec leaves open (`93_implementation_defined.md`). -/

namespace Sys2Proof

/-- The number of slots on the chain (R3). -/
def nSlots : Nat := 4

/-- The capacity of a slot's pending-output queue (R4, R14). -/
def qCap : Nat := 2

/-- The build-time parameters of R4 with the defaults it lists; all durations are in microseconds.
`SUMW` is not a field: `41_checksum.md` R111 fixes 16 bits, and every width from 10 bits up gives the
same byte. -/
structure Config where
  /-- `T_BIT`: the width of one bit slot on send. -/
  tBit : Nat := 417
  /-- `T_SETTLE`: the delay between switching the line to input and the first measurement. -/
  tSettle : Nat := 1500
  /-- `T_TIMEOUT`: the ceiling of one pulse measurement. -/
  tTimeout : Nat := 2500
  /-- `T_THRESH`: a measured high pulse longer than this is a 1 bit. -/
  tThresh : Nat := 400
  /-- `START_LEVEL` (decision D5). -/
  startLevel : Level := .low
  /-- `START_SLOTS` (decision D5). -/
  startSlots : Nat := 1
  /-- `STOP_LEVEL` (decision D7). -/
  stopLevel : Level := .high
  /-- `STOP_SLOTS` (decision D7). -/
  stopSlots : Nat := 2
  /-- `ONE_LEVEL`: the level of a data bit 1 on send (decision D6). -/
  oneLevel : Level := .high
  /-- `ZERO_LEVEL`: the level of a data bit 0 on send (decision D6). -/
  zeroLevel : Level := .low
  /-- `RECORD_INPUT_ALL_STATES` (decision D15, R147). -/
  recordAll : Bool := false
  /-- `SERVO_COLOR_BASE` (decision D23, R183). -/
  servoColorBase : Byte := 0xF0
  deriving DecidableEq, Repr

/-- FREE VALUE (log 2). The width, in microseconds, that the `n`-th pulse measurement with no answer
listed in the state returns: any natural number, 0 for a timeout, not bounded by the timeout and not
related to any other measurement (R96, decision D10, U6). -/
opaque freeWidth : Nat → Nat

/-- FREE VALUE (log 3). `CLK_PER_US`, the clock rate of a pin-level implementation: open, no default
(R4, R211, U5). -/
opaque clkPerUs : Nat

end Sys2Proof
end

