-- ==== Sys2Proof/Syntax.lean ====
section
/-! DEFINITION. The operations of the bus master: one constructor for each row of
`spec/opcode_table.json`, and the carriers of an encoded operation (a format and its bits). -/

namespace Sys2Proof

/-- One constructor per row of `spec/opcode_table.json`, in the table's order. A slot operand `k` is a
plain number, so that an operation written with `k > 3` can be refused as `BadSlot` (R203); only
`compute` types it (R110: "a model should type `k` so"). -/
inductive Instr where
  /-- `UPDATE`: one bus cycle (R160). -/
  | update
  /-- `SET_PENDING k, [b0]` or `SET_PENDING k, [b0, b1]`; the length is explicit (R73, R120). -/
  | setPending (k : Nat) (b0 : Byte) (b1 : Option Byte)
  /-- `GET_CONNECTED k` (R185). -/
  | getConnected (k : Nat)
  /-- `GET_JUST_CONNECTED k` (R186). -/
  | getJustConnected (k : Nat)
  /-- `GET_TYPE k` (R187). -/
  | getType (k : Nat)
  /-- `GET_INPUT k` (R188). -/
  | getInput (k : Nat)
  /-- Host opcode 0x0, reserved (R72 e). -/
  | reservedOp0
  /-- Host opcode 0x7, reserved (R72 e). -/
  | reservedOp7
  /-- Host opcode 0x8, reserved (R72 e). -/
  | reservedOp8
  /-- Host opcode 0x9, reserved (R72 e). -/
  | reservedOp9
  /-- Host opcode 0xA, reserved (R72 e). -/
  | reservedOpA
  /-- Host opcode 0xB, reserved (R72 e). -/
  | reservedOpB
  /-- Host opcode 0xC, reserved (R72 e). -/
  | reservedOpC
  /-- Host opcode 0xD, reserved (R72 e). -/
  | reservedOpD
  /-- Host opcode 0xE, reserved (R72 e). -/
  | reservedOpE
  /-- Host opcode 0xF, reserved (R72 e). -/
  | reservedOpF
  /-- Any command word with bit 17 set, reserved whatever its `op` (R72 e). -/
  | reservedZeroBit
  /-- `SERVO_POS k, deg`, an angle in whole degrees (R181). -/
  | servoPos (k deg : Nat)
  /-- `SERVO_LIM k` (R182). -/
  | servoLim (k : Nat)
  /-- `SERVO_COLOR k, c` (R183). -/
  | servoColor (k : Nat) (c : BitVec 3)
  /-- `LED_COLOR k, red, green, blue, fade` (R184). -/
  | ledColor (k : Nat) (red green blue fade : BitVec 3)
  /-- `sendByte(v)` (R90), internal. -/
  | sendByte (v : Byte)
  /-- `receiveByte()` (R94), internal. -/
  | receiveByte
  /-- `compute(out, k)` (R110), internal. -/
  | compute (out : Quad Byte) (k : SlotIx)
  /-- `setPendingOutput(k, q)` (R120), internal form. -/
  | setPendingOutput (k : Nat) (q : List Byte)
  /-- `nextOutputByte(k)` (R122), internal. -/
  | nextOutputByte (k : Nat)
  /-- `recordInput(k, b)` (R124), internal. -/
  | recordInput (k : Nat) (b : Byte)
  /-- `dsmStep(k, sent, rx)` (R140), internal. -/
  | dsmStep (k : Nat) (sent rx : Byte)
  /-- Reset, a signal (R230). -/
  | reset
  /-- Format B: a byte sent on the line (R60). -/
  | lineSentByte (v : Byte)
  /-- Format P: a byte received on the line (R61). -/
  | lineReceivedByte (v : Byte)
  /-- Format F: the seven bytes of one cycle; the header is fixed and the checksum byte is given by its
  two fields (R62, R63). -/
  | frame (out : Quad Byte) (sum : BitVec 4) (slot : SlotIx) (reply : Byte)
  /-- Format K: the checksum byte (R63). -/
  | checksumByte (sum : BitVec 4) (slot : SlotIx)
  /-- `HEADER`, sent at frame position 0 (R64). -/
  | header
  /-- `NO_MODULE`, sent at positions 1 to 4 (R64). -/
  | noModule
  /-- `DISCOVER`, received (R64, R141). -/
  | discover
  /-- `TYPE_REQUEST`, sent at positions 1 to 4 (R64). -/
  | typeRequest
  /-- `DISCONNECT`, received (R64, R145). -/
  | disconnect
  /-- `NIL`, the no-op output (R64). -/
  | nilByte
  /-- `SERVO_LIMIT_MODE`, sent at positions 1 to 4 (R64). -/
  | servoLimitMode
  /-- `TYPE_SERVO`, received (R64, R143). -/
  | typeServo
  /-- `TYPE_LED`, received (R64, R143). -/
  | typeLed
  /-- Format S: a servo position byte (R65). -/
  | servoPositionByte (p : Byte)
  /-- Format L1: the first byte of an LED update (R66). -/
  | ledByte1 (green red : BitVec 3)
  /-- Format L2: the second byte of an LED update (R66). -/
  | ledByte2 (fade blue : BitVec 3)
  /-- A byte received from a TypeKnown slot and recorded as input (R147). -/
  | recordedInput (v : Byte)
  deriving DecidableEq, Repr

/-- Where a word stands, which decides how it is read: the three layers of `30_encoding.md` and, for a
whole byte, the context of R67 and R68. -/
inductive Format where
  /-- Format H: a 24-bit host command word (R70). -/
  | host
  /-- Format B: the eleven bit slots of a sent byte (R60). -/
  | sentLine
  /-- Format P: the eight bit decisions of a received byte (R61). -/
  | receivedLine
  /-- Format F: the seven bytes of a cycle (R62). -/
  | cycle
  /-- The byte sent at frame position 0 (R62). -/
  | headerByte
  /-- A byte sent at frame positions 1 to 4 to a slot of the given type (R67). -/
  | output (m : ModuleType)
  /-- Format K: the byte sent at frame position 5 (R63). -/
  | checksum
  /-- A byte received from a slot in the given state to which `sent` was sent (R68). -/
  | reply (c : Conn) (sent : Byte)
  deriving DecidableEq, Repr

/-- An encoded word: its format and its bits, read as one number, the leftmost bit of the table's
pattern the most significant (log 5). -/
structure Code where
  fmt : Format
  bits : Nat
  deriving DecidableEq, Repr

/-- How many bits a word of the format has. -/
def Format.width : Format → Nat
  | .host => 24
  | .sentLine => 11
  | .cycle => 56
  | .receivedLine | .headerByte | .output _ | .checksum | .reply _ _ => 8

end Sys2Proof
end

