-- ==== Sys2Proof/WellFormed.lean ====
section
/-! DEFINITION. Which written operations have a meaning: the conditions of the refusals of R203 and the
ranges of the byte formats of `30_encoding.md`. -/

namespace Sys2Proof

/-- The slot operand names one of the four slots (R3, R203 `BadSlot`). -/
def slotOk (k : Nat) : Bool := decide (k < nSlots)

/-- A queue that a setter may enqueue has 1 or 2 bytes (R73, R120, R203 `BadQueueLength`). -/
def queueOk (q : List Byte) : Bool := decide (1 ≤ q.length) && decide (q.length ≤ qCap)

/-- The servo angle is in 0 to 180 degrees (R181, R203 `AngleOutOfRange`). -/
def angleOk (deg : Nat) : Bool := decide (deg ≤ 180)

/-- A format S byte is in the closed range 0x18 to 0xE8 (R65). -/
def servoByteOk (p : Byte) : Bool := decide (0x18 ≤ p.toNat) && decide (p.toNat ≤ 0xE8)

/-- A byte recorded as input is any byte but 0x00 (the table's row RECORDED_INPUT, R147). -/
def recordedOk (v : Byte) : Bool := v != 0

/-- The operation has operands the spec gives a meaning to. -/
def Instr.wellFormed : Instr → Bool
  | .update => true
  | .setPending k _ _ => slotOk k
  | .getConnected k => slotOk k
  | .getJustConnected k => slotOk k
  | .getType k => slotOk k
  | .getInput k => slotOk k
  | .reservedOp0 => true
  | .reservedOp7 => true
  | .reservedOp8 => true
  | .reservedOp9 => true
  | .reservedOpA => true
  | .reservedOpB => true
  | .reservedOpC => true
  | .reservedOpD => true
  | .reservedOpE => true
  | .reservedOpF => true
  | .reservedZeroBit => true
  | .servoPos k deg => angleOk deg && slotOk k
  | .servoLim k => slotOk k
  | .servoColor k _ => slotOk k
  | .ledColor k _ _ _ _ => slotOk k
  | .sendByte _ => true
  | .receiveByte => true
  | .compute _ _ => true
  | .setPendingOutput k q => queueOk q && slotOk k
  | .nextOutputByte k => slotOk k
  | .recordInput k _ => slotOk k
  | .dsmStep k _ _ => slotOk k
  | .reset => true
  | .lineSentByte _ => true
  | .lineReceivedByte _ => true
  | .frame _ _ _ _ => true
  | .checksumByte _ _ => true
  | .header => true
  | .noModule => true
  | .discover => true
  | .typeRequest => true
  | .disconnect => true
  | .nilByte => true
  | .servoLimitMode => true
  | .typeServo => true
  | .typeLed => true
  | .servoPositionByte p => servoByteOk p
  | .ledByte1 _ _ => true
  | .ledByte2 _ _ => true
  | .recordedInput v => recordedOk v

end Sys2Proof
end

