-- ==== Sys2Proof/Decode.lean ====
section
/-! DEFINITION. The byte codes, the assembly of values from parts, the decoder (total on any bits,
rejecting by name) and the encoder, all from `30_encoding.md` and `spec/opcode_table.json`. -/

namespace Sys2Proof

/-! ### The byte codes of R64 -/

def codeHeader : Byte := 0xFF
def codeNoModule : Byte := 0xFE
def codeDiscover : Byte := 0xFE
def codeTypeRequest : Byte := 0xFC
def codeDisconnect : Byte := 0x00
def codeNil : Byte := 0xFB
def codeServoLimitMode : Byte := 0xFA
def codeTypeServo : Byte := 0x01
def codeTypeLed : Byte := 0x02
def codeServoMin : Byte := 0x18
def codeServoMax : Byte := 0xE8
def codeLedSecond : Byte := 0x40

/-! ### Operand assembly (R69) -/

/-- The queue of a `SET_PENDING` command: `[b0]`, or `[b0, b1]` when the command says two (R69, R73). -/
def queueOf (b0 : Byte) : Option Byte → List Byte
  | none => [b0]
  | some b1 => [b0, b1]

/-- The servo position byte of an angle in whole degrees, linear and rounded toward zero (R181). -/
def servoPosByte (deg : Nat) : Byte := codeServoMin + BitVec.ofNat 8 (deg * 208 / 180)

/-- The servo indicator-colour byte, `SERVO_COLOR_BASE | c` (R183). -/
def servoColorByte (base : Byte) (c : BitVec 3) : Byte := base ||| c.zeroExtend 8

/-- Format L1, `00gggrrr` (R66, R184). -/
def ledFirstByte (green red : BitVec 3) : Byte := (green.zeroExtend 8 <<< 3) ||| red.zeroExtend 8

/-- Format L2, `01fffbbb` (R66, R184). -/
def ledSecondByte (fade blue : BitVec 3) : Byte :=
  codeLedSecond ||| (fade.zeroExtend 8 <<< 3) ||| blue.zeroExtend 8

/-- Format K, `ssss00kk` (R63). -/
def checksumBits (sum : BitVec 4) (slot : SlotIx) : Byte := sum ++ 0#2 ++ BitVec.ofFin (w := 2) slot

/-! ### Host command words (R70, R71) -/

/-- Format H: `op`, `slot`, `zero` (written 0), `two`, `b1`, `b0`, from bit 23 down. -/
def hostWord (op : BitVec 4) (k : Nat) (two : Bool) (b1 b0 : Byte) : BitVec 24 :=
  op ++ BitVec.ofNat 2 k ++ 0#1 ++ BitVec.ofBool two ++ b1 ++ b0

/-- The host opcode map (R71). Every 24-bit word has a reading: bit 17 set makes it reserved whatever its
`op` (R72 e and the table's row RESERVED_ZERO_BIT); a field a row does not list is ignored. -/
def decodeHost (w : BitVec 24) : Instr :=
  let k := (w.extractLsb' 18 2).toNat
  if w.getLsbD 17 then .reservedZeroBit
  else
    match (w.extractLsb' 20 4).toNat with
    | 0x0 => .reservedOp0
    | 0x1 => .update
    | 0x2 => .setPending k (w.extractLsb' 0 8) (if w.getLsbD 16 then some (w.extractLsb' 8 8) else none)
    | 0x3 => .getConnected k
    | 0x4 => .getJustConnected k
    | 0x5 => .getType k
    | 0x6 => .getInput k
    | 0x7 => .reservedOp7
    | 0x8 => .reservedOp8
    | 0x9 => .reservedOp9
    | 0xA => .reservedOpA
    | 0xB => .reservedOpB
    | 0xC => .reservedOpC
    | 0xD => .reservedOpD
    | 0xE => .reservedOpE
    | _ => .reservedOpF

/-! ### Line words and byte codes -/

/-- Why a word of a format is none of the table's rows. -/
inductive DecodeError where
  /-- Format B: the start slot is not LOW or a stop slot is not HIGH (R60). -/
  | badFraming
  /-- Frame position 0 is not 0xFF (R62). -/
  | badHeader
  /-- Format K: bits 3:2 are not 0 (R63). -/
  | badChecksumByte
  /-- An output byte that R67 reads as the servo indicator colour `c`: it has a meaning, and the table has a
  row only for the setter that enqueues it (R183). -/
  | servoColorWithoutRow (c : BitVec 3)
  /-- An output byte to which R67 gives no meaning for a slot of that type. -/
  | outputWithoutMeaning
  /-- A received byte that matches no arm of R68 in that state. -/
  | replyWithoutMatch
  deriving DecidableEq, Repr

/-- The servo indicator colour that a byte carries, if it is a colour byte over that base (R67, R183). With
the default base the colour is the one `SERVO_COLOR` was given. -/
def servoColorOf (base b : Byte) : Option (BitVec 3) :=
  if servoColorByte base (b.extractLsb' 0 3) = b then some (b.extractLsb' 0 3) else none

/-- An output byte read for a slot of type `m` (R67): the fixed codes first, then the range of the type, and
for a Servo the colour bytes over `SERVO_COLOR_BASE` last (log 16). -/
def decodeOutput (base : Byte) (m : ModuleType) (b : Byte) : Except DecodeError Instr :=
  if b = codeNoModule then .ok .noModule
  else if b = codeTypeRequest then .ok .typeRequest
  else if b = codeNil then .ok .nilByte
  else if b = codeServoLimitMode then .ok .servoLimitMode
  else
    match m with
    | .none => .error .outputWithoutMeaning
    | .servo =>
      if servoByteOk b then .ok (.servoPositionByte b)
      else
        match servoColorOf base b with
        | some c => .error (.servoColorWithoutRow c)
        | none => .error .outputWithoutMeaning
    | .led =>
      if b.extractLsb' 6 2 = 0 then .ok (.ledByte1 (b.extractLsb' 3 3) (b.extractLsb' 0 3))
      else if b.extractLsb' 6 2 = 1 then .ok (.ledByte2 (b.extractLsb' 3 3) (b.extractLsb' 0 3))
      else .error .outputWithoutMeaning

/-- A received byte read for a slot in state `c` to which `sent` was sent (R68). -/
def decodeReply (c : Conn) (sent b : Byte) : Except DecodeError Instr :=
  match c with
  | .disconnected => if b = codeDiscover then .ok .discover else .error .replyWithoutMatch
  | .discovered =>
    if sent = codeTypeRequest ∧ b = codeTypeServo then .ok .typeServo
    else if sent = codeTypeRequest ∧ b = codeTypeLed then .ok .typeLed
    else .error .replyWithoutMatch
  | .typeKnown => if b = codeDisconnect then .ok .disconnect else .ok (.recordedInput b)

/-- The checksum byte read back (R63). -/
def decodeChecksum (b : Byte) : Except DecodeError Instr :=
  if b.extractLsb' 2 2 = 0 then .ok (.checksumByte (b.extractLsb' 4 4) (b.extractLsb' 0 2).toFin)
  else .error .badChecksumByte

/-- The eleven slots of a sent byte, slot 0 leftmost: a LOW start slot, the data bits least significant
first, two HIGH stop slots (R60). -/
def decodeSentLine (w : BitVec 11) : Except DecodeError Instr :=
  if w.getLsbD 10 = false ∧ w.extractLsb' 0 2 = 3 then .ok (.lineSentByte (w.extractLsb' 2 8).reverse)
  else .error .badFraming

/-- The seven bytes of a cycle, position 0 leftmost (R62). -/
def decodeFrame (w : BitVec 56) : Except DecodeError Instr :=
  let cks : Byte := w.extractLsb' 8 8
  if w.extractLsb' 48 8 = codeHeader then
    if cks.extractLsb' 2 2 = 0 then
      .ok (.frame ⟨w.extractLsb' 40 8, w.extractLsb' 32 8, w.extractLsb' 24 8, w.extractLsb' 16 8⟩
        (cks.extractLsb' 4 4) (cks.extractLsb' 0 2).toFin (w.extractLsb' 0 8))
    else .error .badChecksumByte
  else .error .badHeader

/-- The decoder: total on every format and every number, bits above the format's width ignored. The one
parameter it reads is `SERVO_COLOR_BASE` (R67), and which instruction a word is never depends on it. -/
def decode (cfg : Config) (c : Code) : Except DecodeError Instr :=
  match c.fmt with
  | .host => .ok (decodeHost (BitVec.ofNat 24 c.bits))
  | .sentLine => decodeSentLine (BitVec.ofNat 11 c.bits)
  | .receivedLine => .ok (.lineReceivedByte (BitVec.ofNat 8 c.bits).reverse)
  | .cycle => decodeFrame (BitVec.ofNat 56 c.bits)
  | .headerByte => if BitVec.ofNat 8 c.bits = codeHeader then .ok .header else .error .badHeader
  | .output m => decodeOutput cfg.servoColorBase m (BitVec.ofNat 8 c.bits)
  | .checksum => decodeChecksum (BitVec.ofNat 8 c.bits)
  | .reply conn sent => decodeReply conn sent (BitVec.ofNat 8 c.bits)

/-! ### Reading a table word with no context

`decodeTableWord` is given a word and no context, but R67 and R68 make the meaning of a byte depend on
its direction and on the slot. A byte is then given the context of the row that fixes the most of its
bits; where two rows fix the same bits, the received one (log 6). -/

/-- The context a byte is given when nothing says where it stands. -/
def formatOfByte (b : Byte) : Format :=
  if b = codeHeader then .headerByte
  else if b = codeDiscover then .reply .disconnected codeNoModule
  else if b = codeTypeRequest then .output .none
  else if b = codeNil then .output .none
  else if b = codeServoLimitMode then .output .servo
  else if b = codeDisconnect then .reply .typeKnown codeNoModule
  else if b = codeTypeServo then .reply .discovered codeTypeRequest
  else if b = codeTypeLed then .reply .discovered codeTypeRequest
  else if b.getLsbD 7 = false then .output .led
  else if b.extractLsb' 2 2 = 0 then .checksum
  else if servoByteOk b then .output .servo
  else .reply .typeKnown codeNoModule

/-- The format of a table word of `nbits` bits: a byte, an eleven-slot line word (two whole bytes), a
host command word or a frame. -/
def formatOfWord (nbits w : Nat) : Option Format :=
  match nbits with
  | 8 => some (formatOfByte (BitVec.ofNat 8 w))
  | 11 => some .sentLine
  | 16 => some .sentLine
  | 24 => some .host
  | 56 => some .cycle
  | _ => none

/-- The instruction the decoder reads from a table word; `none` where it refuses. -/
def decodeTableWord (nbits w : Nat) : Option Instr :=
  match formatOfWord nbits w with
  | none => none
  | some f => (decode {} ⟨f, w⟩).toOption

/-! ### The encoder -/

/-- A host command word as a code. -/
def hostCode (op : BitVec 4) (k : Nat) (two : Bool) (b1 b0 : Byte) : Code :=
  ⟨.host, (hostWord op k two b1 b0).toNat⟩

/-- The command word of `SET_PENDING k, q` for a queue of one or two bytes (R120). -/
def pendingCode (k : Nat) (b0 : Byte) : Option Byte → Code
  | none => hostCode 0x2 k false 0 b0
  | some b1 => hostCode 0x2 k true b1 b0

/-- A whole byte in a context. -/
def byteCode (f : Format) (b : Byte) : Code := ⟨f, b.toNat⟩

/-- The word of an instruction (`none` for the rows of format `internal`, which have no command word, and
for a slot or an angle out of range). A pseudo-operation is encoded as the `SET_PENDING` it expands to
(R75); ignored fields are written 0 (R71). -/
def encode (c : Config) : Instr → Option Code
  | .update => some (hostCode 0x1 0 false 0 0)
  | .setPending k b0 b1 => if slotOk k then some (pendingCode k b0 b1) else none
  | .getConnected k => if slotOk k then some (hostCode 0x3 k false 0 0) else none
  | .getJustConnected k => if slotOk k then some (hostCode 0x4 k false 0 0) else none
  | .getType k => if slotOk k then some (hostCode 0x5 k false 0 0) else none
  | .getInput k => if slotOk k then some (hostCode 0x6 k false 0 0) else none
  | .reservedOp0 => some (hostCode 0x0 0 false 0 0)
  | .reservedOp7 => some (hostCode 0x7 0 false 0 0)
  | .reservedOp8 => some (hostCode 0x8 0 false 0 0)
  | .reservedOp9 => some (hostCode 0x9 0 false 0 0)
  | .reservedOpA => some (hostCode 0xA 0 false 0 0)
  | .reservedOpB => some (hostCode 0xB 0 false 0 0)
  | .reservedOpC => some (hostCode 0xC 0 false 0 0)
  | .reservedOpD => some (hostCode 0xD 0 false 0 0)
  | .reservedOpE => some (hostCode 0xE 0 false 0 0)
  | .reservedOpF => some (hostCode 0xF 0 false 0 0)
  | .reservedZeroBit => some ⟨.host, 0x020000⟩
  | .servoPos k deg => if angleOk deg && slotOk k then some (pendingCode k (servoPosByte deg) none) else none
  | .servoLim k => if slotOk k then some (pendingCode k codeServoLimitMode none) else none
  | .servoColor k col =>
    if slotOk k then some (pendingCode k (servoColorByte c.servoColorBase col) none) else none
  | .ledColor k red green blue fade =>
    if slotOk k then some (pendingCode k (ledFirstByte green red) (some (ledSecondByte fade blue))) else none
  | .sendByte _ => none
  | .receiveByte => none
  | .compute _ _ => none
  | .setPendingOutput _ _ => none
  | .nextOutputByte _ => none
  | .recordInput _ _ => none
  | .dsmStep _ _ _ => none
  | .reset => none
  | .lineSentByte v => some ⟨.sentLine, (0#1 ++ v.reverse ++ 3#2).toNat⟩
  | .lineReceivedByte v => some ⟨.receivedLine, v.reverse.toNat⟩
  | .frame o sum k r =>
    some ⟨.cycle, (codeHeader ++ o.q0 ++ o.q1 ++ o.q2 ++ o.q3 ++ checksumBits sum k ++ r).toNat⟩
  | .checksumByte sum k => some (byteCode .checksum (checksumBits sum k))
  | .header => some (byteCode .headerByte codeHeader)
  | .noModule => some (byteCode (.output .none) codeNoModule)
  | .discover => some (byteCode (.reply .disconnected codeNoModule) codeDiscover)
  | .typeRequest => some (byteCode (.output .none) codeTypeRequest)
  | .disconnect => some (byteCode (.reply .typeKnown codeNoModule) codeDisconnect)
  | .nilByte => some (byteCode (.output .none) codeNil)
  | .servoLimitMode => some (byteCode (.output .servo) codeServoLimitMode)
  | .typeServo => some (byteCode (.reply .discovered codeTypeRequest) codeTypeServo)
  | .typeLed => some (byteCode (.reply .discovered codeTypeRequest) codeTypeLed)
  | .servoPositionByte p => some (byteCode (.output .servo) p)
  | .ledByte1 green red => some (byteCode (.output .led) (ledFirstByte green red))
  | .ledByte2 fade blue => some (byteCode (.output .led) (ledSecondByte fade blue))
  | .recordedInput v => some (byteCode (.reply .typeKnown codeNoModule) v)

/-- The core instruction of an operation: a pseudo-operation's one `SET_PENDING` (R75), every other
operation itself. -/
def Instr.core (c : Config) : Instr → Instr
  | .servoPos k deg => .setPending k (servoPosByte deg) none
  | .servoLim k => .setPending k codeServoLimitMode none
  | .servoColor k col => .setPending k (servoColorByte c.servoColorBase col) none
  | .ledColor k red green blue fade => .setPending k (ledFirstByte green red) (some (ledSecondByte fade blue))
  | i => i

end Sys2Proof
end

