-- ==== Sys2Proof/Machine/State.lean ====
section
/-! DEFINITION. The state of the bus master, all of `10_state.md`, as plain data, its reset value, and
the ways a step can stop. -/

namespace Sys2Proof.Machine

/-- One entry of the register file (R10). -/
structure Slot where
  /-- `connectionState` (R11). -/
  conn : Conn
  /-- `moduleType` (R12). -/
  mtype : ModuleType
  /-- `lastInputByte` (R13). -/
  lastIn : Byte
  /-- `pendingOutputBytes`, the head is sent first; 0 to 2 bytes (R14, R16 b). -/
  pend : List Byte
  /-- `cachedOutputByte`, the byte last sent (R15). -/
  cached : Byte
  /-- The polling flag `justConnected` (R17). -/
  justConn : Bool
  deriving DecidableEq, Repr

/-- A slot in its initial state (R28). -/
def Slot.initial : Slot :=
  { conn := .disconnected, mtype := .none, lastIn := 0x00, pend := [], cached := codeNoModule, justConn := false }

/-- An event of the line trace (R26). -/
inductive Event where
  /-- The direction is set. -/
  | dir (d : Dir)
  /-- The line is held at a level for a time. -/
  | drive (l : Level) (t : Nat)
  /-- Nothing is done for a time. -/
  | sleep (t : Nat)
  /-- One measurement with timeout `t` returned the width `d`. -/
  | measure (t d : Nat)
  deriving DecidableEq, Repr

/-- The response port after the last host operation (R71, decision D1). -/
inductive Response where
  /-- The operation has no result: `rsp_valid` is 0. -/
  | silent
  /-- The result byte `rsp`. -/
  | byte (b : Byte)
  /-- `rsp_valid` is 0; the model's own mark that the command was a reserved word, which R203 names
  `ReservedCommand` and the hardware ignores (R72 e, log 9). -/
  | reservedCommand
  deriving DecidableEq, Repr

/-- What comes to the block from outside, one item a step (log 4). -/
inductive Input where
  /-- A word: of format H, a command of the host, run as one atomic operation (R44); of another format, a
  word of the line, performed by the engine on its own. -/
  | word (c : Code)
  /-- An `UPDATE` command accepted by a pin-level implementation: the cycle then runs phase by phase
  (R21). -/
  | updateStart
  /-- The reset signal (R230). -/
  | rst
  deriving DecidableEq, Repr

/-- The hardware raises no exception, no fault and no hard failure of any kind (R200): there is no
constructor, and no step of this model ends in a fault. -/
inductive Fault where
  deriving DecidableEq, Repr

/-- Why a step has no next state. A refusal is the spec's, not the hardware's (R203): it is safe. -/
inductive Refusal where
  /-- Raised by an arm of `exec` whose instruction has no meaning yet; no arm raises it now. Safe. -/
  | notModelled (mnemonic : String)
  /-- Raised by `setPendingOutput` for a queue that has not 1 or 2 bytes (R203, D20). Safe. -/
  | badQueueLength
  /-- Raised by `SERVO_POS` for an angle above 180 degrees (R203, D21). Safe. -/
  | angleOutOfRange
  /-- Raised by any operation with a slot operand above 3 (R203, D20). Safe. -/
  | badSlot
  /-- Raised by any host operation while a cycle is in progress (R203, D4); a step never raises it,
  since it accepts no command then. Safe. -/
  | busy
  /-- Raised by a step whose input is a line word that is none of the table's rows and that the block
  never sends: a broken framing, header or checksum byte (R60, R62, R63). Safe. -/
  | notARow (e : DecodeError)
  deriving DecidableEq, Repr

/-- Everything the spec gives the machine, and, last, what the model itself adds. -/
structure State where
  /-- The register file `slot[0..3]` (R10). -/
  slots : Quad Slot
  /-- The round-robin cursor, a 2-bit register (R20). -/
  cursor : SlotIx
  /-- The sequencer's phase (R21); `busy` is `phase` not `idle`. -/
  phase : Phase
  /-- The line's direction (R22). -/
  dir : Dir
  /-- The level driven while the direction is `output` (R23). -/
  lvl : Level
  /-- Frame registers `out[0..3]` (R24). -/
  out : Quad Byte
  /-- Frame register `cks` (R24). -/
  cks : Byte
  /-- Frame register `rx` (R24). -/
  rx : Byte
  /-- The transport's byte shift register (R25). -/
  shift : Byte
  /-- The transport's bit index, 0 to 7 (R25). -/
  bitIx : Fin 8
  /-- The transport's microsecond timer: the length of the last interval (R25). -/
  timer : Nat
  /-- The response port (R71, decision D1). -/
  rsp : Response
  /-- The line trace, oldest event first (R26). -/
  trace : List Event
  /-- The model's own: the build-time parameters of R4, which no operation writes (R27, log 1). -/
  cfg : Config
  /-- The model's own: what comes from outside, in order (log 4). -/
  inputs : List Input
  /-- The model's own: the oracle's next answers to a pulse measurement, as far as they are listed
  (R96, log 2). -/
  widths : List Nat
  /-- The model's own: how many measurements were answered by the free value (log 2). -/
  draws : Nat
  deriving DecidableEq, Repr

/-- The machine right after reset (R28, R230). -/
def State.reset : State :=
  { slots := ⟨Slot.initial, Slot.initial, Slot.initial, Slot.initial⟩
    cursor := 0
    phase := .idle
    dir := .input
    lvl := .high
    out := ⟨0, 0, 0, 0⟩
    cks := 0
    rx := 0
    shift := 0
    bitIx := 0
    timer := 0
    rsp := .silent
    trace := []
    cfg := {}
    inputs := []
    widths := []
    draws := 0 }

end Sys2Proof.Machine
end

