-- ==== Sys2Proof/Machine/Ops.lean ====
section
/-! DEFINITION. The shared operations: access to the register file, the pin primitives of R91, and the
two events that put state back to its initial value (a slot's disconnect, R145 and R206; reset, R230).
The hardware has no exception entry and no return (R200, R206, R207). -/

namespace Sys2Proof.Machine

/-- What an operation answers. -/
abbrev Result := Host.Outcome State Fault Refusal

/-! ### The register file (R10) -/

def State.slot (s : State) (k : SlotIx) : Slot := s.slots.get k

def putSlot (k : SlotIx) (sl : Slot) (s : State) : State := { s with slots := s.slots.set k sl }

def onSlot (k : SlotIx) (f : Slot → Slot) (s : State) : State := putSlot k (f (s.slot k)) s

/-! ### The response port and the phase (R21, R71) -/

def respond (r : Response) (s : State) : State := { s with rsp := r }

def enterPhase (p : Phase) (s : State) : State := { s with phase := p }

/-! ### The pin primitives (R91) -/

def emit (e : Event) (s : State) : State := { s with trace := s.trace ++ [e] }

/-- `SetDir(d)`. -/
def setDir (d : Dir) (s : State) : State := emit (.dir d) { s with dir := d }

/-- `Drive(l, t)`. -/
def drive (l : Level) (t : Nat) (s : State) : State := emit (.drive l t) { s with lvl := l, timer := t }

/-- `Sleep(t)`. -/
def sleep (t : Nat) (s : State) : State := emit (.sleep t) { s with timer := t }

/-- The oracle's answer to the next measurement: the first width listed, else the free value (R96,
log 2). -/
def drawWidth (s : State) : Nat × State :=
  match s.widths with
  | d :: ds => (d, { s with widths := ds })
  | [] => (freeWidth s.draws, { s with draws := s.draws + 1 })

/-- `Measure(T)` (R96). -/
def measure (t : Nat) (s : State) : Nat × State :=
  let (d, s') := drawWidth s
  (d, emit (.measure t d) { s' with timer := d })

/-! ### Back to the initial state -/

/-- The disconnect event of one slot: every field gets its reset value (R145). It is the one event that
resets architectural state in answer to an input; nothing is saved (R206). -/
def disconnectSlot (sl : Slot) : Slot :=
  { sl with conn := .disconnected, mtype := .none, cached := codeNoModule, pend := [], lastIn := 0x00,
            justConn := false }

/-- Reset: every piece of the block's state has the value of R28. The build-time parameters and what
stands outside the block (pending inputs, the oracle) stay. -/
def resetMachine (s : State) : State :=
  { State.reset with cfg := s.cfg, inputs := s.inputs, widths := s.widths, draws := s.draws }

end Sys2Proof.Machine
end

