-- ==== Sys2Proof/Machine/Flags.lean ====
section
/-! DEFINITION. The flags: the four `justConn` bits and `busy` (R19). There are no condition codes and no
error, timeout, mismatch or overrun flag. -/

namespace Sys2Proof.Machine

/-- `busy` is 1 exactly when the phase is not Idle (R21). -/
def State.busy (s : State) : Bool := s.phase != .idle

/-- Set on the transition to TypeKnown (R17, R143). -/
def raiseJustConn (sl : Slot) : Slot := { sl with justConn := true }

/-- Cleared when the host reads it (R17, R186). -/
def clearJustConn (sl : Slot) : Slot := { sl with justConn := false }

/-- A Boolean result as a response byte (R71, R185, R186). -/
def boolByte (b : Bool) : Byte := if b then 0x01 else 0x00

/-- "Connected" is TypeKnown and nothing else (R185). -/
def connectedByte (sl : Slot) : Byte := boolByte (sl.conn == .typeKnown)

/-- A module type as its code (R10, R187). -/
def typeByte : ModuleType → Byte
  | .none => 0x00
  | .servo => codeTypeServo
  | .led => codeTypeLed

end Sys2Proof.Machine
end

