-- ==== Sys2Proof/Machine/Operands.lean ====
section
/-! DEFINITION. The forms an operand can have and the checks an operation makes on them (R203): a slot
index, a queue, an angle, a reply given as a byte, and the host's turn. -/

namespace Sys2Proof.Machine

/-- An operation with a slot operand is refused for an index above 3 (R203 `BadSlot`). -/
def withSlot (k : Nat) (f : SlotIx → Result) : Result :=
  if h : k < 4 then f ⟨k, h⟩ else .refused .badSlot

/-- A queue to be enqueued has 1 or 2 bytes (R120, R203 `BadQueueLength`). -/
def withQueue (q : List Byte) (r : Result) : Result :=
  if queueOk q then r else .refused .badQueueLength

/-- A servo angle is at most 180 degrees (R181, R203 `AngleOutOfRange`). -/
def withAngle (deg : Nat) (r : Result) : Result :=
  if angleOk deg then r else .refused .angleOutOfRange

/-- A host operation never takes effect while a cycle is in progress (R44, R203 `Busy`). -/
def asHost (s : State) (r : Result) : Result :=
  if s.busy then .refused .busy else r

/-- The eight widths of a reply given as a byte: any width above the threshold for a 1 bit, any width not
above it for a 0 bit, bit 0 first (R61, R97). -/
def widthsOfByte (thresh n : Nat) (v : Byte) : List Nat :=
  (List.range 8).map fun i =>
    if v.getLsbD i then thresh + 1 + freeWidth (n + i) else freeWidth (n + i) % (thresh + 1)

/-- The oracle will answer the next eight measurements so that they decode to `v` (R74, R97). -/
def supplyReply (v : Byte) (s : State) : State :=
  { s with widths := widthsOfByte s.cfg.tThresh s.draws v ++ s.widths, draws := s.draws + 8 }

end Sys2Proof.Machine
end

