-- ==== Sys2Proof/Machine/Transport.lean ====
section
/-! DEFINITION. BitLevelTransport (`40_transport.md`): `sendByte`, `receiveByte`, and the line formats B
and P of the opcode table. -/

namespace Sys2Proof.Machine

/-- One data bit: the lowest bit of the shift register is held for one bit slot (R90). -/
def sendBit (s : State) (i : Fin 8) : State :=
  let l := if s.shift.getLsbD 0 then s.cfg.oneLevel else s.cfg.zeroLevel
  let s := drive l s.cfg.tBit { s with bitIx := i }
  { s with shift := s.shift >>> 1 }

/-- The bit positions, least significant first (R41). -/
def bitPositions : List (Fin 8) := [0, 1, 2, 3, 4, 5, 6, 7]

/-- `sendByte(v)` (R90). -/
def sendByte (v : Byte) (s : State) : State :=
  let s := setDir .output s
  let s := drive s.cfg.startLevel (s.cfg.startSlots * s.cfg.tBit) s
  let s := bitPositions.foldl sendBit { s with shift := v }
  drive s.cfg.stopLevel (s.cfg.stopSlots * s.cfg.tBit) s

/-- One received bit: 1 exactly when the measured width exceeds the threshold (R94, R95). -/
def receiveBit (s : State) (i : Fin 8) : State :=
  let (d, s) := measure s.cfg.tTimeout { s with bitIx := i }
  { s with shift := s.shift ||| (if d > s.cfg.tThresh then 1#8 <<< i.val else 0) }

/-- `receiveByte()`: the result is the byte built in the shift register (R94). -/
def receiveByte (s : State) : Byte × State :=
  let s := setDir .input s
  let s := sleep s.cfg.tSettle s
  let s := bitPositions.foldl receiveBit { s with shift := 0 }
  (s.shift, s)

/-- The received byte goes to the frame register `rx` (R24, R160 step 4). -/
def receiveReply (s : State) : State :=
  let (b, s) := receiveByte s
  { s with rx := b }

/-- The internal operation `sendByte` (R90). -/
def execSendByte (v : Byte) (s : State) : Result := .next (sendByte v s)

/-- The internal operation `receiveByte` (R94). -/
def execReceiveByte (s : State) : Result := .next (receiveReply s)

/-- Format B: the byte `v` goes out on the line as its bit slots (R60). -/
def execLineSentByte (v : Byte) (s : State) : Result := .next (sendByte v s)

/-- Format P: the byte `v` comes in on the line, as any eight widths that decode to it (R61, R97). -/
def execLineReceivedByte (v : Byte) (s : State) : Result := .next (receiveReply (supplyReply v s))

end Sys2Proof.Machine
end

