-- ==== Sys2Proof/Machine/Checksum.lean ====
section
/-! DEFINITION. ChecksumCodec (`41_checksum.md`): `compute`, and format K of the opcode table. -/

namespace Sys2Proof.Machine

/-- `compute(out, k)` in an accumulator of `w` bits: sum, two folds, mask, OR of the slot index (R110,
R111). -/
def checksumAt (w : Nat) (out : Quad Byte) (k : SlotIx) : Byte :=
  let s : BitVec w := out.q0.zeroExtend w + out.q1.zeroExtend w + out.q2.zeroExtend w + out.q3.zeroExtend w
  let s := s + (s >>> 8)
  let s := s + (s <<< 4)
  let s := s &&& BitVec.ofNat w 0x00F0
  let s := s ||| (BitVec.ofNat w k.val &&& BitVec.ofNat w 0x0F)
  s.setWidth 8

/-- `compute(out, k)` with the accumulator of `SUMW` = 16 bits (R110). -/
def checksum (out : Quad Byte) (k : SlotIx) : Byte := checksumAt 16 out k

/-- The internal operation `compute`: its result goes to the frame register `cks` (R24, R160 step 3). -/
def execCompute (out : Quad Byte) (k : SlotIx) (s : State) : Result := .next { s with cks := checksum out k }

/-- Format K: the checksum byte goes out on the line (R63, R160 step 3). -/
def execChecksumByte (sum : BitVec 4) (slot : SlotIx) (s : State) : Result :=
  .next (sendByte (checksumBits sum slot) s)

end Sys2Proof.Machine
end

