-- ==== Sys2Proof/Machine/ModuleState.lean ====
section
/-! DEFINITION. ModuleState (`42_module_state.md`): `setPendingOutput`, `nextOutputByte`, `recordInput`.
None of them touches the line. -/

namespace Sys2Proof.Machine

/-- The queue is replaced, whatever it held (R120). -/
def setPend (q : List Byte) (sl : Slot) : Slot := { sl with pend := q }

/-- The byte to send to the slot this cycle, and the slot after it: the head of the queue, which becomes
the sticky byte, or the sticky byte (R122). -/
def popOutput (sl : Slot) : Byte × Slot :=
  match sl.pend with
  | b :: rest => (b, { sl with pend := rest, cached := b })
  | [] => (sl.cached, sl)

/-- The byte is stored as received (R124). -/
def storeInput (b : Byte) (sl : Slot) : Slot := { sl with lastIn := b }

/-- `nextOutputByte(k)`: the result goes to the frame register `out[k]` (R122, R160 step 2). -/
def nextOutput (k : SlotIx) (s : State) : State :=
  let (b, sl) := popOutput (s.slot k)
  putSlot k sl { s with out := s.out.set k b }

/-- The internal operation `setPendingOutput` (R120). -/
def execSetPendingOutput (k : Nat) (q : List Byte) (s : State) : Result :=
  withQueue q (withSlot k fun k => .next (onSlot k (setPend q) s))

/-- The internal operation `nextOutputByte` (R122). -/
def execNextOutputByte (k : Nat) (s : State) : Result :=
  withSlot k fun k => .next (nextOutput k s)

/-- The internal operation `recordInput` (R124). -/
def execRecordInput (k : Nat) (b : Byte) (s : State) : Result :=
  withSlot k fun k => .next (onSlot k (storeInput b) s)

end Sys2Proof.Machine
end

