-- ==== Sys2Proof/Machine/Discovery.lean ====
section
/-! DEFINITION. DiscoveryStateMachine (`43_discovery.md`): the discovery step, and the received byte
codes of the opcode table. -/

namespace Sys2Proof.Machine

/-- The slot becomes TypeKnown with the type its module named (R143). -/
def becomeKnown (m : ModuleType) (sl : Slot) : Slot :=
  raiseJustConn { sl with conn := .typeKnown, mtype := m }

/-- The arms of the discovery step, R141 to R147. -/
def discoveryArm (sent rx : Byte) (sl : Slot) : Slot :=
  match sl.conn with
  | .disconnected =>
    if rx = codeDiscover then setPend [codeTypeRequest] { sl with conn := .discovered } else sl
  | .discovered =>
    if sent = codeTypeRequest ∧ rx = codeTypeServo then becomeKnown .servo sl
    else if sent = codeTypeRequest ∧ rx = codeTypeLed then becomeKnown .led sl
    else sl
  | .typeKnown =>
    if rx = codeDisconnect then disconnectSlot sl else storeInput rx sl

/-- `dsmStep` on one slot: the arm, then the record that `RECORD_INPUT_ALL_STATES` adds (R140, R147). -/
def discoverySlot (recordAll : Bool) (sent rx : Byte) (sl : Slot) : Slot :=
  let sl := discoveryArm sent rx sl
  if recordAll then storeInput rx sl else sl

/-- `dsmStep(k, sent, rx)` (R140). -/
def dsmStep (k : SlotIx) (sent rx : Byte) (s : State) : State :=
  onSlot k (discoverySlot s.cfg.recordAll sent rx) s

/-- The reply byte `b` comes in and is dispatched to the active slot (R68, R160 step 4). The byte sent to
that slot is its `cached` byte (R151). -/
def replyByte (b : Byte) (s : State) : State :=
  let s := receiveReply (supplyReply b s)
  dsmStep s.cursor (s.slot s.cursor).cached s.rx s

/-- The internal operation `dsmStep` (R140). -/
def execDsmStep (k : Nat) (sent rx : Byte) (s : State) : Result :=
  withSlot k fun k => .next (dsmStep k sent rx s)

/-- The byte DISCOVER is received (R64, R141). -/
def execDiscover (s : State) : Result := .next (replyByte codeDiscover s)

/-- The byte DISCONNECT is received (R64, R145). -/
def execDisconnect (s : State) : Result := .next (replyByte codeDisconnect s)

/-- The type code Servo is received (R64, R143). -/
def execTypeServo (s : State) : Result := .next (replyByte codeTypeServo s)

/-- The type code Led is received (R64, R143). -/
def execTypeLed (s : State) : Result := .next (replyByte codeTypeLed s)

/-- A byte to be recorded as input is received (R147). -/
def execRecordedInput (v : Byte) (s : State) : Result := .next (replyByte v s)

end Sys2Proof.Machine
end

