-- ==== Sys2Proof/Machine/ChainEngine.lean ====
section
/-! DEFINITION. ChainEngine (`44_chain_engine.md`): one bus cycle, the same cycle phase by phase, the
frame and the sent byte codes of the opcode table, and reset. -/

namespace Sys2Proof.Machine

/-! ### The work of each phase (R160) -/

/-- Step 1, phase Hdr. -/
def sendHeader (s : State) : State := sendByte codeHeader s

/-- Step 2 for slot `k`, phase Out`k`: pop, then send (R161). -/
def sendOutput (k : SlotIx) (s : State) : State :=
  let s := nextOutput k s
  sendByte (s.out.get k) s

/-- Step 3, phase Cks. -/
def sendChecksum (s : State) : State :=
  let s := { s with cks := checksum s.out s.cursor }
  sendByte s.cks s

/-- Step 5: the cursor advances, wrapping after slot 3 (R20, R162). -/
def advanceCursor (s : State) : State := { s with cursor := s.cursor + 1 }

/-- Steps 4 (its second half) and 5, phase Dispatch. -/
def dispatchReply (s : State) : State :=
  advanceCursor (dsmStep s.cursor (s.out.get s.cursor) s.rx s)

/-- Steps 1 to 3: the six bytes of the frame. -/
def sendFrame (s : State) : State :=
  sendChecksum (sendOutput 3 (sendOutput 2 (sendOutput 1 (sendOutput 0 (sendHeader s)))))

/-- `update()`, one whole bus cycle (R160). -/
def updateCycle (s : State) : State := dispatchReply (receiveReply (sendFrame s))

/-! ### The cycle phase by phase (R21) -/

/-- A pin-level implementation accepts `UPDATE`: the cycle begins, `busy` is 1, and the response port is
silent (R21, R71, R164). -/
def beginCycle (s : State) : State := respond .silent (enterPhase .hdr s)

/-- The work of the phase the sequencer is in, and the next phase; Idle stays Idle. -/
def tick (s : State) : State :=
  match s.phase with
  | .idle => s
  | .hdr => enterPhase .out0 (sendHeader s)
  | .out0 => enterPhase .out1 (sendOutput 0 s)
  | .out1 => enterPhase .out2 (sendOutput 1 s)
  | .out2 => enterPhase .out3 (sendOutput 2 s)
  | .out3 => enterPhase .cks (sendOutput 3 s)
  | .cks => enterPhase .rx (sendChecksum s)
  | .rx => enterPhase .dispatch (receiveReply s)
  | .dispatch => enterPhase .idle (dispatchReply s)

/-! ### The cycle as a function (R166) -/

/-- What one cycle does to the register file and the cursor, and the six bytes it sends. -/
structure CycleResult where
  slots : Quad Slot
  cursor : SlotIx
  frame : List Byte
  deriving DecidableEq, Repr

/-- The four output bytes of a cycle (R122, R160 step 2). -/
def outputsOf (q : Quad Slot) : Quad Byte :=
  ⟨(popOutput q.q0).1, (popOutput q.q1).1, (popOutput q.q2).1, (popOutput q.q3).1⟩

/-- The register file after step 2 (R122). -/
def poppedOf (q : Quad Slot) : Quad Slot :=
  ⟨(popOutput q.q0).2, (popOutput q.q1).2, (popOutput q.q2).2, (popOutput q.q3).2⟩

/-- One cycle as a function of the register file, the cursor and the reply byte (R166). -/
def cycle (recordAll : Bool) (q : Quad Slot) (c : SlotIx) (rx : Byte) : CycleResult :=
  let o := outputsOf q
  let p := poppedOf q
  { slots := p.set c (discoverySlot recordAll (o.get c) rx (p.get c))
    cursor := c + 1
    frame := [codeHeader, o.q0, o.q1, o.q2, o.q3, checksum o c] }

/-! ### The instructions -/

/-- `UPDATE` (R160). -/
def execUpdate (s : State) : Result := asHost s (.next (respond .silent (updateCycle s)))

/-- Format F: the transport activity of one cycle with these bytes: six bytes go out, the reply comes in
(R62). It is the line's part of a cycle alone: the register file and the cursor are written by the
operations that choose the bytes (R122) and dispatch the reply (R140). -/
def execFrame (o : Quad Byte) (sum : BitVec 4) (slot : SlotIx) (reply : Byte) (s : State) : Result :=
  let s := sendHeader { s with out := o, cks := checksumBits sum slot }
  let s := sendByte o.q3 (sendByte o.q2 (sendByte o.q1 (sendByte o.q0 s)))
  let s := sendByte (checksumBits sum slot) s
  .next (receiveReply (supplyReply reply s))

/-- The header byte goes out (R64, R160 step 1). -/
def execHeader (s : State) : Result := .next (sendByte codeHeader s)

/-- The no-module output goes out (R15, R64). -/
def execNoModule (s : State) : Result := .next (sendByte codeNoModule s)

/-- The type request goes out (R64, R141). -/
def execTypeRequest (s : State) : Result := .next (sendByte codeTypeRequest s)

/-- The no-op output goes out (R64). -/
def execNilByte (s : State) : Result := .next (sendByte codeNil s)

/-- The limit-mode code goes out (R64, R182). -/
def execServoLimitMode (s : State) : Result := .next (sendByte codeServoLimitMode s)

/-- A servo position byte goes out (R65). -/
def execServoPositionByte (p : Byte) (s : State) : Result := .next (sendByte p s)

/-- The first byte of an LED update goes out (R66). -/
def execLedByte1 (green red : BitVec 3) (s : State) : Result := .next (sendByte (ledFirstByte green red) s)

/-- The second byte of an LED update goes out (R66). -/
def execLedByte2 (fade blue : BitVec 3) (s : State) : Result := .next (sendByte (ledSecondByte fade blue) s)

/-- Reset (R230): it overrides a cycle in progress. -/
def execReset (s : State) : Result := .next (resetMachine s)

end Sys2Proof.Machine
end

