-- ==== Sys2Proof/Machine/Absorb.lean ====
section
/-! DEFINITION. A line word that is none of the opcode table's rows (R72): an output byte with no meaning
is sent as it is, a received byte that matches no arm is dispatched and absorbed; any other such word the
block never sends. -/

namespace Sys2Proof.Machine

/-- What a word without a row does (R72 a, b, c). -/
def absorbWord (c : Code) (e : DecodeError) (s : State) : Result :=
  match c.fmt with
  | .output _ => .next (sendByte (BitVec.ofNat 8 c.bits) s)
  | .reply _ _ => .next (replyByte (BitVec.ofNat 8 c.bits) s)
  | .host | .sentLine | .receivedLine | .cycle | .headerByte | .checksum => .refused (.notARow e)

end Sys2Proof.Machine
end

