-- ==== Sys2Proof/Machine/HostOps.lean ====
section
/-! DEFINITION. The host's operations (`45_setters_and_queries.md`): the setters, the queries, and the
reserved command words. None of them touches the line, the cursor or another slot (R189). -/

namespace Sys2Proof.Machine

/-! ### Setters -/

/-- What every setter does: its bytes replace the slot's queue (R120, R180). It has no result. -/
def enqueue (k : Nat) (q : List Byte) (s : State) : Result :=
  asHost s (withSlot k fun k => .next (onSlot k (setPend q) (respond .silent s)))

/-- `SET_PENDING` (R120). -/
def execSetPending (k : Nat) (b0 : Byte) (b1 : Option Byte) (s : State) : Result := enqueue k (queueOf b0 b1) s

/-- `SERVO_POS` (R181). -/
def execServoPos (k deg : Nat) (s : State) : Result :=
  asHost s (withAngle deg (enqueue k [servoPosByte deg] s))

/-- `SERVO_LIM` (R182). -/
def execServoLim (k : Nat) (s : State) : Result := enqueue k [codeServoLimitMode] s

/-- `SERVO_COLOR` (R183). -/
def execServoColor (k : Nat) (c : BitVec 3) (s : State) : Result :=
  enqueue k [servoColorByte s.cfg.servoColorBase c] s

/-- `LED_COLOR` (R184). -/
def execLedColor (k : Nat) (red green blue fade : BitVec 3) (s : State) : Result :=
  enqueue k [ledFirstByte green red, ledSecondByte fade blue] s

/-! ### Queries -/

/-- What every query does: the response byte is read from the slot, and the slot is left as `after` says
(R71). -/
def query (k : Nat) (answer : Slot → Byte) (after : Slot → Slot) (s : State) : Result :=
  asHost s (withSlot k fun k => .next (onSlot k after (respond (.byte (answer (s.slot k))) s)))

/-- `GET_CONNECTED` (R185). -/
def execGetConnected (k : Nat) (s : State) : Result := query k connectedByte id s

/-- `GET_JUST_CONNECTED`: the read clears the flag (R186). -/
def execGetJustConnected (k : Nat) (s : State) : Result :=
  query k (fun sl => boolByte sl.justConn) clearJustConn s

/-- `GET_TYPE` (R187). -/
def execGetType (k : Nat) (s : State) : Result := query k (fun sl => typeByte sl.mtype) id s

/-- `GET_INPUT` (R188). -/
def execGetInput (k : Nat) (s : State) : Result := query k Slot.lastIn id s

/-! ### Reserved command words -/

/-- The hardware ignores a reserved command word: no state changes and there is no `rsp`; the response
port carries the model's mark `ReservedCommand` (R72 e, log 9). -/
def ignoreReserved (s : State) : Result := asHost s (.next (respond .reservedCommand s))

/-- `op` 0x0 (R72 e). -/
def execReservedOp0 (s : State) : Result := ignoreReserved s
/-- `op` 0x7 (R72 e). -/
def execReservedOp7 (s : State) : Result := ignoreReserved s
/-- `op` 0x8 (R72 e). -/
def execReservedOp8 (s : State) : Result := ignoreReserved s
/-- `op` 0x9 (R72 e). -/
def execReservedOp9 (s : State) : Result := ignoreReserved s
/-- `op` 0xA (R72 e). -/
def execReservedOpA (s : State) : Result := ignoreReserved s
/-- `op` 0xB (R72 e). -/
def execReservedOpB (s : State) : Result := ignoreReserved s
/-- `op` 0xC (R72 e). -/
def execReservedOpC (s : State) : Result := ignoreReserved s
/-- `op` 0xD (R72 e). -/
def execReservedOpD (s : State) : Result := ignoreReserved s
/-- `op` 0xE (R72 e). -/
def execReservedOpE (s : State) : Result := ignoreReserved s
/-- `op` 0xF (R72 e). -/
def execReservedOpF (s : State) : Result := ignoreReserved s
/-- Bit 17 set (R72 e). -/
def execReservedZeroBit (s : State) : Result := ignoreReserved s

end Sys2Proof.Machine
end

