-- ==== Sys2Proof/Machine/Dispatch.lean ====
section
/-! DEFINITION. The dispatch: one arm per row of `spec/opcode_table.json`. -/

namespace Sys2Proof.Machine

def exec (i : Instr) (s : State) : Host.Outcome State Fault Refusal :=
  match i with
  | .update => Sys2Proof.Machine.execUpdate s
  | .setPending k b0 b1 => Sys2Proof.Machine.execSetPending k b0 b1 s
  | .getConnected k => Sys2Proof.Machine.execGetConnected k s
  | .getJustConnected k => Sys2Proof.Machine.execGetJustConnected k s
  | .getType k => Sys2Proof.Machine.execGetType k s
  | .getInput k => Sys2Proof.Machine.execGetInput k s
  | .reservedOp0 => Sys2Proof.Machine.execReservedOp0 s
  | .reservedOp7 => Sys2Proof.Machine.execReservedOp7 s
  | .reservedOp8 => Sys2Proof.Machine.execReservedOp8 s
  | .reservedOp9 => Sys2Proof.Machine.execReservedOp9 s
  | .reservedOpA => Sys2Proof.Machine.execReservedOpA s
  | .reservedOpB => Sys2Proof.Machine.execReservedOpB s
  | .reservedOpC => Sys2Proof.Machine.execReservedOpC s
  | .reservedOpD => Sys2Proof.Machine.execReservedOpD s
  | .reservedOpE => Sys2Proof.Machine.execReservedOpE s
  | .reservedOpF => Sys2Proof.Machine.execReservedOpF s
  | .reservedZeroBit => Sys2Proof.Machine.execReservedZeroBit s
  | .servoPos k deg => Sys2Proof.Machine.execServoPos k deg s
  | .servoLim k => Sys2Proof.Machine.execServoLim k s
  | .servoColor k c => Sys2Proof.Machine.execServoColor k c s
  | .ledColor k red green blue fade => Sys2Proof.Machine.execLedColor k red green blue fade s
  | .sendByte v => Sys2Proof.Machine.execSendByte v s
  | .receiveByte => Sys2Proof.Machine.execReceiveByte s
  | .compute out k => Sys2Proof.Machine.execCompute out k s
  | .setPendingOutput k q => Sys2Proof.Machine.execSetPendingOutput k q s
  | .nextOutputByte k => Sys2Proof.Machine.execNextOutputByte k s
  | .recordInput k b => Sys2Proof.Machine.execRecordInput k b s
  | .dsmStep k sent rx => Sys2Proof.Machine.execDsmStep k sent rx s
  | .reset => Sys2Proof.Machine.execReset s
  | .lineSentByte v => Sys2Proof.Machine.execLineSentByte v s
  | .lineReceivedByte v => Sys2Proof.Machine.execLineReceivedByte v s
  | .frame out sum slot reply => Sys2Proof.Machine.execFrame out sum slot reply s
  | .checksumByte sum slot => Sys2Proof.Machine.execChecksumByte sum slot s
  | .header => Sys2Proof.Machine.execHeader s
  | .noModule => Sys2Proof.Machine.execNoModule s
  | .discover => Sys2Proof.Machine.execDiscover s
  | .typeRequest => Sys2Proof.Machine.execTypeRequest s
  | .disconnect => Sys2Proof.Machine.execDisconnect s
  | .nilByte => Sys2Proof.Machine.execNilByte s
  | .servoLimitMode => Sys2Proof.Machine.execServoLimitMode s
  | .typeServo => Sys2Proof.Machine.execTypeServo s
  | .typeLed => Sys2Proof.Machine.execTypeLed s
  | .servoPositionByte p => Sys2Proof.Machine.execServoPositionByte p s
  | .ledByte1 green red => Sys2Proof.Machine.execLedByte1 green red s
  | .ledByte2 fade blue => Sys2Proof.Machine.execLedByte2 fade blue s
  | .recordedInput v => Sys2Proof.Machine.execRecordedInput v s

end Sys2Proof.Machine
end

