-- ==== Sys2Proof/Machine/Step.lean ====
section
/-! DEFINITION. One step of the machine: it takes the next item from outside, or goes on with the cycle
in progress, or is idle. -/

namespace Sys2Proof.Machine

/-- One step. The reset signal overrides a cycle in progress (R230). While a cycle is in progress no word
is accepted and the engine does the work of its phase (R21, R164, decision D4). Otherwise the next word is
decoded and run. With nothing from outside the block is idle and every piece of state keeps its value
(R165, R214). -/
def step (s : State) : Host.Outcome State Fault Refusal :=
  match s.inputs with
  | .rst :: rest => exec .reset { s with inputs := rest }
  | .word c :: rest =>
    if s.busy then .next (tick s)
    else
      match decode s.cfg c with
      | .ok i => exec i { s with inputs := rest }
      | .error e => absorbWord c e { s with inputs := rest }
  | .updateStart :: rest => .next (if s.busy then tick s else beginCycle { s with inputs := rest })
  | [] => .next (tick s)

/-- The state with an instruction's word standing first among the inputs, and no cycle in progress, so
that the very next step runs it. The word's format is the one `decodeTableWord` reads it in; a number of
bits that no row has is left to the host's format. -/
def State.withFetchWord (s : State) (nbits w : Nat) : State :=
  { s with
    phase := .idle
    inputs := .word ⟨(formatOfWord nbits w).getD .host, w⟩ :: s.inputs }

end Sys2Proof.Machine
end

