-- ==== Sys2Proof/Machine/Pin.lean ====
section
/-! DEFINITION. The block seen at its pins: the ports of R100 and decision D1, the pin-level reading of a
pulse measurement (R98, decision D9), and the durations of R99 and R251. No operation of the model reads
anything of this file; it gives the pin-level terms their meaning over the same state. -/

namespace Sys2Proof.Machine

/-! ### Ports (R100, decision D1) -/

/-- The block's outputs. -/
structure Ports where
  /-- `line_o`, the level driven. -/
  lineO : Level
  /-- `line_oe`, 1 when the direction is OUT. -/
  lineOE : Bool
  /-- `cmd_ready`, 0 while `busy` (decision D4). -/
  cmdReady : Bool
  /-- `rsp_valid` and `rsp`. -/
  rsp : Option Byte
  /-- `busy`. -/
  busy : Bool
  deriving DecidableEq, Repr

/-- The response byte, if there is one (R71). -/
def Response.byte? : Response → Option Byte
  | .silent => none
  | .byte b => some b
  | .reservedCommand => none

/-- The outputs of the block in a state. -/
def portsOf (s : State) : Ports :=
  { lineO := s.lvl
    lineOE := s.dir == .output
    cmdReady := !s.busy
    rsp := s.rsp.byte?
    busy := s.busy }

/-! ### A pulse measurement on a waveform (R98) -/

/-- How far a measurement has come: waiting out a HIGH already present, waiting for the pulse to start,
or counting it. -/
inductive MeasureStage where
  | waitLow
  | waitHigh
  | counting (n : Nat)
  deriving DecidableEq, Repr

/-- One measurement with timeout `t` on the levels of `line_i`, one a microsecond, of which `elapsed` have
passed: the width, 0 if more than `t` microseconds pass before the pulse has ended, and the rest of the
waveform. `none` if the waveform ends first, so that nothing is presumed about levels not given. -/
def measureWave (t : Nat) : MeasureStage → Nat → List Level → Option (Nat × List Level)
  | _, _, [] => none
  | st, elapsed, l :: ls =>
    if elapsed > t then some (0, l :: ls)
    else
      match st, l with
      | .waitLow, .high => measureWave t .waitLow (elapsed + 1) ls
      | .waitLow, .low => measureWave t .waitHigh (elapsed + 1) ls
      | .waitHigh, .low => measureWave t .waitHigh (elapsed + 1) ls
      | .waitHigh, .high => measureWave t (.counting 1) (elapsed + 1) ls
      | .counting n, .high => measureWave t (.counting (n + 1)) (elapsed + 1) ls
      | .counting n, .low => some (n, l :: ls)

/-- `n` measurements, one after the other. -/
def measureWaves (t : Nat) : Nat → List Level → Option (List Nat)
  | 0, _ => some []
  | n + 1, wave =>
    match measureWave t .waitLow 0 wave with
    | none => none
    | some (d, rest) => (measureWaves t n rest).map (d :: ·)

/-- The oracle's next eight answers are those of a waveform. -/
def supplyWave (wave : List Level) (s : State) : Option State :=
  (measureWaves s.cfg.tTimeout 8 wave).map fun ds => { s with widths := ds ++ s.widths }

/-! ### Durations (R99, R211, R251) -/

/-- The time an event takes by the master's own timers: a level held or a delay. A change of direction
takes none, and the time of a measurement is not the master's to fix (R96). -/
def Event.ownTime : Event → Nat
  | .dir _ => 0
  | .drive _ t => t
  | .sleep t => t
  | .measure _ _ => 0

/-- The time the master's own timers take over a trace, in microseconds. -/
def ownTime (es : List Event) : Nat := (es.map Event.ownTime).sum

/-- A duration in clock cycles of a pin-level implementation (R211, decision D2). -/
def clockCycles (t : Nat) : Nat := t * clkPerUs

end Sys2Proof.Machine
end

