-- ==== Sys2Proof/Safety.lean ====
section
/-! DEFINITION. The terms claims are stated in: what a run may do (invariants of the register file and of
the line), and the line's traffic as plain functions of bytes and widths, written apart from the
operations that produce it. -/

namespace Sys2Proof

/-! ### The rows with no command word -/

/-- The rows of format `internal`: invoked only inside `UPDATE`, and the reset signal (R71). -/
def Instr.isInternal : Instr → Bool
  | .sendByte _ | .receiveByte | .compute _ _ | .setPendingOutput _ _ | .nextOutputByte _ | .recordInput _ _
  | .dsmStep _ _ _ | .reset => true
  | _ => false

/-- The operations the host may issue (R210): `UPDATE`, `SET_PENDING` and the setters, the four queries,
and the reserved words, which are ignored. -/
def Instr.isHost : Instr → Bool
  | .update | .setPending _ _ _ | .getConnected _ | .getJustConnected _ | .getType _ | .getInput _
  | .reservedOp0 | .reservedOp7 | .reservedOp8 | .reservedOp9 | .reservedOpA | .reservedOpB | .reservedOpC
  | .reservedOpD | .reservedOpE | .reservedOpF | .reservedZeroBit | .servoPos _ _ | .servoLim _
  | .servoColor _ _ | .ledColor _ _ _ _ _ => true
  | _ => false

end Sys2Proof

namespace Sys2Proof.Machine

/-! ### What a claim does not speak of -/

/-- A state without the transport's own registers, which live only while a transport operation runs and
whose names and contents no source gives (R25, log 8). -/
def State.visible (s : State) : State := { s with shift := 0, bitIx := 0, timer := 0 }

/-- The answer is a next state. -/
def goesOn (r : Result) : Bool :=
  match r with
  | .next _ => true
  | .fault _ => false
  | .refused _ => false

/-- One operation after another, as long as they go on. -/
def andThen (r : Result) (f : State → Result) : Result :=
  match r with
  | .next s => f s
  | .fault e => .fault e
  | .refused e => .refused e

/-- `n` steps of the machine. -/
def runSteps : Nat → State → Result
  | 0, s => .next s
  | n + 1, s => andThen (step s) (runSteps n)

/-! ### The line's traffic -/

/-- What `sendByte(v)` puts on the line (R60, R90): direction, start, eight data bits least significant
first, stop. -/
def sentEvents (c : Config) (v : Byte) : List Event :=
  [.dir .output, .drive c.startLevel (c.startSlots * c.tBit)]
    ++ (List.range 8).map (fun i => .drive (if v.getLsbD i then c.oneLevel else c.zeroLevel) c.tBit)
    ++ [.drive c.stopLevel (c.stopSlots * c.tBit)]

/-- What a receive leaves in the trace (R94): direction, settle delay, one measurement for each width. -/
def receivedEvents (c : Config) (ws : List Nat) : List Event :=
  [.dir .input, .sleep c.tSettle] ++ ws.map (.measure c.tTimeout ·)

/-- The number that pulse widths spell, least significant bit first: a bit is 1 exactly when its width
exceeds the threshold (R61, R95). -/
def numberOfWidths (thresh : Nat) : List Nat → Nat
  | [] => 0
  | d :: ds => (if d > thresh then 1 else 0) + 2 * numberOfWidths thresh ds

/-- The byte that eight widths decode to (R61). -/
def byteOfWidths (thresh : Nat) (ws : List Nat) : Byte := BitVec.ofNat 8 (numberOfWidths thresh ws)

/-- The eight widths `ws` are a reply of byte `v`: bit `i` of `v` is 1 exactly when width `i` exceeds the
threshold, the first width being bit 0's (R41, R61). -/
def DecodesTo (thresh : Nat) (ws : List Nat) (v : Byte) : Prop :=
  ws.length = 8 ∧ ∀ i < 8, (ws.getD i 0 > thresh ↔ v.getLsbD i = true)

/-- The oracle's next `n` answers: the widths listed, then the free ones (R96, log 2). -/
def answersOf : Nat → List Nat → Nat → List Nat
  | 0, _, _ => []
  | n + 1, d :: ds, k => d :: answersOf n ds k
  | n + 1, [], k => freeWidth k :: answersOf n [] (k + 1)

/-- The eight answers the next receive gets. -/
def State.answers (s : State) : List Nat := answersOf 8 s.widths s.draws

/-- The byte the next receive gives. -/
def State.reply (s : State) : Byte := byteOfWidths s.cfg.tThresh s.answers

/-- The checksum byte in its closed form over the naturals (R112). -/
def checksumClosed (o : Quad Byte) (k : SlotIx) : Byte :=
  let sum := o.q0.toNat + o.q1.toNat + o.q2.toNat + o.q3.toNat
  let s1 := sum + sum / 256
  BitVec.ofNat 8 (((s1 / 16 % 16 + s1 % 16) % 16) * 16 + k.val)

/-- The six bytes of a frame on the line, in order (R42, R62). -/
def frameEvents (c : Config) (bytes : List Byte) : List Event := bytes.flatMap (sentEvents c)

/-- The whole traffic of a cycle that sends `bytes` and gets the widths `ws` (R54, R160). -/
def cycleEvents (c : Config) (bytes : List Byte) (ws : List Nat) : List Event :=
  frameEvents c bytes ++ receivedEvents c ws

/-- One `update()` after another, each with its reply byte (R74, R97). -/
def runCycles (replies : List Byte) (s : State) : State :=
  replies.foldl (fun s r => updateCycle (supplyReply r s)) s

/-- The slot that is active in the cycle after `n` cycles (R20, R162). -/
def activeAfter (n : Nat) (s : State) : SlotIx := s.cursor + Fin.ofNat 4 n

/-- The discovery step of a slot with this reply writes what the slot sends: the slot is announced (R141) or
disconnected (R145). Nothing else the engine does writes it (R123). -/
def Slot.disturbedBy (sl : Slot) (rx : Byte) : Prop :=
  (sl.conn = .disconnected ∧ rx = 0xFE) ∨ (sl.conn = .typeKnown ∧ rx = 0x00)

/-- In no cycle of these in which slot `k` is the active one does the reply write what the slot sends. What
the other slots answer does not matter. -/
def Undisturbed (k : SlotIx) (replies : List Byte) (s : State) : Prop :=
  ∀ n r, replies[n]? = some r → activeAfter n s = k → ¬ ((runCycles (replies.take n) s).slot k).disturbedBy r

/-! ### The register file -/

/-- The invariants of one slot (R16 b, c, d, R12). -/
def Slot.ok (sl : Slot) : Prop :=
  sl.pend.length ≤ qCap ∧ (sl.mtype = .none ↔ sl.conn ≠ .typeKnown) ∧ (sl.justConn = true → sl.conn = .typeKnown)

/-- The invariants of the register file (R16). -/
def RegisterFileOk (s : State) : Prop := ∀ k, (s.slot k).ok

/-- No input byte is kept for a slot that is not TypeKnown, unless the parameter says so (R13, R188). -/
def InputOnlyWhenKnown (s : State) : Prop :=
  s.cfg.recordAll = false → ∀ k, (s.slot k).conn ≠ .typeKnown → (s.slot k).lastIn = 0x00

/-- What a connection state may become in one step: the same, or one of the three transitions of R11. -/
def connStep : Conn → Conn → Bool
  | .disconnected, .disconnected | .disconnected, .discovered => true
  | .discovered, .discovered | .discovered, .typeKnown => true
  | .typeKnown, .typeKnown | .typeKnown, .disconnected => true
  | _, _ => false

/-! ### The line -/

/-- The direction after a trace that starts with direction `d`; `none` if the master drives the line while
the direction is IN, or measures or settles while it is OUT (R54). -/
def lineScan (d : Dir) : List Event → Option Dir
  | [] => some d
  | .dir d' :: es => lineScan d' es
  | .drive _ _ :: es => if d = .output then lineScan d es else none
  | .sleep _ :: es => if d = .input then lineScan d es else none
  | .measure _ _ :: es => if d = .input then lineScan d es else none

/-- The trace keeps the line's discipline and ends in the direction the state has (R54, R101). -/
def LineOk (s : State) : Prop := lineScan .input s.trace = some s.dir

/-- An item that comes from the host or the reset signal, not a word of the line (R40, R210). -/
def Input.fromHost : Input → Bool
  | .word c => c.fmt == .host
  | .updateStart => true
  | .rst => true

/-- Only the host acts on the block. -/
def HostOnly (s : State) : Prop := s.inputs.all Input.fromHost = true

/-- The direction the line has in each phase: OUT once the header is sent and until the receive, IN
otherwise, and so between two cycles (R22, R101). -/
def phaseDir : Phase → Dir
  | .idle | .hdr | .dispatch => .input
  | .out0 | .out1 | .out2 | .out3 | .cks | .rx => .output

/-- The slots whose output byte of this cycle is already on the line. -/
def sentSlots : Phase → List SlotIx
  | .idle | .hdr | .out0 => []
  | .out1 => [0]
  | .out2 => [0, 1]
  | .out3 => [0, 1, 2]
  | .cks | .rx | .dispatch => [0, 1, 2, 3]

/-- What holds while only the host acts: the direction is the phase's (R101), and the byte sent to a slot
in this cycle is its `cached` byte (R16 a). -/
def BusOk (s : State) : Prop :=
  HostOnly s ∧ s.dir = phaseDir s.phase ∧ ∀ k ∈ sentSlots s.phase, s.out.get k = (s.slot k).cached

end Sys2Proof.Machine
end

