-- ==== Sys2Proof/Certificates/Slice0/Obligations.lean ====
section
/-! DEFINITION. The statements for the provers, from the numbered rules of `spec/`. -/

open Sys2Proof Sys2Proof.Machine

/-! ### Encodings -/

/-- R70, R71, R75 and the table's patterns: the word of every well-formed operation decodes to that
operation, a pseudo-operation's to the `SET_PENDING` it expands to. The layouts of format H and of the LED
bytes are decisions D3 and D22 of the spec; that a line word is one number, and which, is log 5. -/
def Obligations.DecodeOfEncodeIsTheCoreInstruction : Prop :=
  ∀ (c : Config) (i : Instr) (code : Code),
    i.wellFormed = true → encode c i = some code → decode c code = .ok (i.core c)

/-- R71: among well-formed operations exactly the internal ones have no word. -/
def Obligations.ExactlyInternalRowsHaveNoWord : Prop :=
  ∀ (c : Config) (i : Instr), i.wellFormed = true → (encode c i = none ↔ i.isInternal = true)

/-- R72 (e), T84: a command word is reserved by its bit 17 exactly when that bit is set, whatever its
other bits. -/
def Obligations.OnlyBitSeventeenMakesZeroBitReserved : Prop :=
  ∀ (cfg : Config) (w : BitVec 24), decode cfg ⟨.host, w.toNat⟩ = .ok .reservedZeroBit ↔ w.toNat / 2 ^ 17 % 2 = 1

/-- R70, R71, R72 (e): the host opcode map, every field read by its place in the number. -/
def Obligations.HostOpcodeMapReadsEveryField : Prop :=
  ∀ (cfg : Config), ∀ w < 2 ^ 24, w / 2 ^ 17 % 2 = 0 →
    let k := w / 2 ^ 18 % 4
    let b0 : Byte := BitVec.ofNat 8 (w % 256)
    let b1 : Byte := BitVec.ofNat 8 (w / 256 % 256)
    let i := decode cfg ⟨.host, w⟩
    (w / 2 ^ 20 = 0x0 → i = .ok .reservedOp0) ∧
    (w / 2 ^ 20 = 0x1 → i = .ok .update) ∧
    (w / 2 ^ 20 = 0x2 → w / 2 ^ 16 % 2 = 0 → i = .ok (.setPending k b0 none)) ∧
    (w / 2 ^ 20 = 0x2 → w / 2 ^ 16 % 2 = 1 → i = .ok (.setPending k b0 (some b1))) ∧
    (w / 2 ^ 20 = 0x3 → i = .ok (.getConnected k)) ∧
    (w / 2 ^ 20 = 0x4 → i = .ok (.getJustConnected k)) ∧
    (w / 2 ^ 20 = 0x5 → i = .ok (.getType k)) ∧
    (w / 2 ^ 20 = 0x6 → i = .ok (.getInput k)) ∧
    (w / 2 ^ 20 = 0x7 → i = .ok .reservedOp7) ∧
    (w / 2 ^ 20 = 0x8 → i = .ok .reservedOp8) ∧
    (w / 2 ^ 20 = 0x9 → i = .ok .reservedOp9) ∧
    (w / 2 ^ 20 = 0xA → i = .ok .reservedOpA) ∧
    (w / 2 ^ 20 = 0xB → i = .ok .reservedOpB) ∧
    (w / 2 ^ 20 = 0xC → i = .ok .reservedOpC) ∧
    (w / 2 ^ 20 = 0xD → i = .ok .reservedOpD) ∧
    (w / 2 ^ 20 = 0xE → i = .ok .reservedOpE) ∧
    (w / 2 ^ 20 = 0xF → i = .ok .reservedOpF)

/-- T74, T77, T79, T80, T83, T84: host words written out from the encoding; and a sent byte (T27) and a frame
(T50) whose numbers are the model's reading of the table's patterns, which no rule numbers (log 5, DEDUCED). -/
def Obligations.WrittenOutWordsDecode : Prop :=
  decodeTableWord 24 0x100000 = some .update ∧
  decodeTableWord 24 0x200080 = some (.setPending 0 0x80 none) ∧
  decodeTableWord 24 0x20AB80 = some (.setPending 0 0x80 none) ∧
  decodeTableWord 24 0x254724 = some (.setPending 1 0x24 (some 0x47)) ∧
  decodeTableWord 24 0x5C0000 = some (.getType 3) ∧
  decodeTableWord 24 0x12FFFF = some .reservedZeroBit ∧
  decodeTableWord 16 0b00000010111 = some (.lineSentByte 0xA0) ∧
  decodeTableWord 56 0xFFFEFEFEFEA000 = some (.frame ⟨0xFE, 0xFE, 0xFE, 0xFE⟩ 0xA 0 0x00)

/-! ### Steps -/

/-- R44, R70: with no cycle in progress, a step whose next input is a word that decodes to an instruction is
that instruction on the state with the word taken from the inputs. -/
def Obligations.StepRunsTheDecodedInstruction : Prop :=
  ∀ (s : State) (c : Code) (rest : List Input) (i : Instr),
    s.phase = .idle → s.inputs = .word c :: rest → decode s.cfg c = .ok i →
      step s = exec i { s with inputs := rest }

/-- The model's fetch (log 4): the word that `withFetchWord` places is the instruction the very next step
runs. -/
def Obligations.PlacedTableWordRunsNext : Prop :=
  ∀ (s : State) (n w : Nat) (i : Instr),
    decodeTableWord n w = some i → step (s.withFetchWord n w) = exec i { s with phase := .idle }

/-- R165: nothing happens by itself. -/
def Obligations.NothingHappensWithoutTheHost : Prop :=
  ∀ s : State, s.phase = .idle → s.inputs = [] → step s = .next s

/-- R164, D4: while a cycle is in progress no input but reset is taken, and the engine goes on. -/
def Obligations.NoCommandIsAcceptedWhileBusy : Prop :=
  ∀ s : State, s.phase ≠ .idle → s.inputs.head? ≠ some .rst →
    step s = .next (tick s) ∧ (tick s).inputs = s.inputs

/-- R200, R72 (e): no input from the host stops the machine. -/
def Obligations.HostInputsNeverStopTheMachine : Prop :=
  ∀ s : State, HostOnly s → ∃ t, step s = .next t

/-- R72 (a) to (c): a line word that is none of the table's rows. An output byte is sent as it is, a reply does
what the discovery step of the active slot does with it, and a word of any other line format is refused by
name, since the block never sends or receives it. Which words are absorbed and which refused, and that a line
word can be an input at all, are the model's choice (logs 4, 11, 18). -/
def Obligations.UnmatchedLineBytesAreAbsorbed : Prop :=
  ∀ (s : State) (m : ModuleType) (c : Conn) (sent b : Byte) (code : Code) (rest : List Input) (e : DecodeError),
    s.phase = .idle →
      (decode s.cfg ⟨.output m, b.toNat⟩ = .error e → s.inputs = .word ⟨.output m, b.toNat⟩ :: rest →
        ∃ t, step s = .next t ∧ t.slots = s.slots ∧ t.cursor = s.cursor ∧ t.inputs = rest ∧
          t.trace = s.trace ++ sentEvents s.cfg b) ∧
      (decode s.cfg ⟨.reply c sent, b.toNat⟩ = .error e → s.inputs = .word ⟨.reply c sent, b.toNat⟩ :: rest →
        ∃ t u, step s = .next t ∧ exec (.dsmStep s.cursor (s.slot s.cursor).cached b) s = .next u ∧
          t.slots = u.slots ∧ t.cursor = s.cursor ∧ t.rx = b ∧ t.inputs = rest) ∧
      ((∀ m, code.fmt ≠ .output m) → (∀ c sent, code.fmt ≠ .reply c sent) →
        decode s.cfg code = .error e → s.inputs = .word code :: rest →
        step s = .refused (.notARow e))

/-! ### Reset -/

/-- R28: the values after reset. Only the connection state and the type are the source's own words; the
`cached` value is derived in R15, the others are decisions D4, D8, D12, D18. -/
def Obligations.ResetValues : Prop :=
  (∀ k, State.reset.slot k =
    { conn := .disconnected, mtype := .none, lastIn := 0x00, pend := [], cached := 0xFE, justConn := false }) ∧
  State.reset.cursor = 0 ∧ State.reset.phase = .idle ∧ State.reset.dir = .input ∧ State.reset.lvl = .high ∧
  State.reset.trace = []

/-- R28, R230: reset puts every piece of state back, in any phase, and the reset signal runs it at once.
What stands outside the block stays (log 7). -/
def Obligations.ResetOverridesEverything : Prop :=
  ∀ s : State,
    let t : State :=
      { State.reset with cfg := s.cfg, inputs := s.inputs, widths := s.widths, draws := s.draws }
    exec .reset s = .next t ∧ ∀ rest, step { s with inputs := .rst :: rest } = .next { t with inputs := rest }

/-! ### The host's setters -/

/-- R120: the queue is replaced, in every connection state; nothing else of the slot, no other slot, not
the line. -/
def Obligations.SetPendingReplacesTheQueue : Prop :=
  ∀ (s : State) (k : SlotIx) (b0 : Byte) (b1 : Option Byte), s.phase = .idle →
    exec (.setPending k b0 b1) s =
      .next { s with
        rsp := .silent
        slots := s.slots.set k { s.slot k with pend := match b1 with | none => [b0] | some b => [b0, b] } }

/-- R181 (the rounding is decision D21): the byte, its range and its three anchor points. -/
def Obligations.ServoPosEnqueuesItsByte : Prop :=
  (∀ (s : State) (k : SlotIx) (deg : Nat), s.phase = .idle → deg ≤ 180 →
    ∃ p : Byte, p.toNat = 0x18 + deg * 208 / 180 ∧ 0x18 ≤ p.toNat ∧ p.toNat ≤ 0xE8 ∧
      (deg = 0 → p = 0x18) ∧ (deg = 90 → p = 0x80) ∧ (deg = 180 → p = 0xE8) ∧
      exec (.servoPos k deg) s =
        .next { s with rsp := .silent, slots := s.slots.set k { s.slot k with pend := [p] } })

/-- R182: the limit-mode byte is enqueued. -/
def Obligations.ServoLimEnqueuesLimitMode : Prop :=
  ∀ (s : State) (k : SlotIx), s.phase = .idle →
    exec (.servoLim k) s =
      .next { s with rsp := .silent, slots := s.slots.set k { s.slot k with pend := [0xFA] } }

/-- R183, R67 (the base is decision D23): the colour byte is enqueued, and with the default base it is none of
the sentinels, outside the position range, and read back as that colour when it stands in a Servo's place. -/
def Obligations.ServoColorEnqueuesItsByte : Prop :=
  ∀ (s : State) (k : SlotIx) (c : BitVec 3), s.phase = .idle →
    ∃ p : Byte, p = s.cfg.servoColorBase ||| BitVec.ofNat 8 c.toNat ∧
      (s.cfg.servoColorBase = 0xF0 → p.toNat = 0xF0 + c.toNat ∧ p.toNat < 0xFA ∧ 0xE8 < p.toNat ∧
        decode s.cfg ⟨.output .servo, p.toNat⟩ = .error (.servoColorWithoutRow c)) ∧
      exec (.servoColor k c) s =
        .next { s with rsp := .silent, slots := s.slots.set k { s.slot k with pend := [p] } }

/-- R184, R66 (the field places are decision D22): the two bytes in order, and the marker that tells them
apart. -/
def Obligations.LedColorEnqueuesItsPair : Prop :=
  ∀ (s : State) (k : SlotIx) (red green blue fade : BitVec 3), s.phase = .idle →
    ∃ b1 b2 : Byte,
      b1.toNat = green.toNat * 8 + red.toNat ∧ b2.toNat = 0x40 + fade.toNat * 8 + blue.toNat ∧
      b1.getLsbD 6 = false ∧ b2.getLsbD 6 = true ∧
      exec (.ledColor k red green blue fade) s =
        .next { s with rsp := .silent, slots := s.slots.set k { s.slot k with pend := [b1, b2] } }

/-! ### The host's queries and the reserved words -/

/-- R185, R187, R188 (what "connected" means and the read of the input byte are decisions D19, D26): the
answers, and that these reads change nothing else. -/
def Obligations.QueriesAnswerAndChangeNothing : Prop :=
  ∀ (s : State) (k : SlotIx), s.phase = .idle →
    exec (.getConnected k) s =
      .next { s with rsp := .byte (match (s.slot k).conn with | .typeKnown => 0x01 | _ => 0x00) } ∧
    exec (.getType k) s =
      .next { s with rsp := .byte (match (s.slot k).mtype with | .none => 0x00 | .servo => 0x01 | .led => 0x02) } ∧
    exec (.getInput k) s = .next { s with rsp := .byte (s.slot k).lastIn }

/-- R186 (decision D18): the flag is answered and cleared, so that a second read answers 0. -/
def Obligations.JustConnectedIsReadOnce : Prop :=
  ∀ (s : State) (k : SlotIx), s.phase = .idle →
    let t : State :=
      { s with
        rsp := .byte (if (s.slot k).justConn = true then 0x01 else 0x00)
        slots := s.slots.set k { s.slot k with justConn := false } }
    exec (.getJustConnected k) s = .next t ∧
    exec (.getJustConnected k) t = .next { t with rsp := .byte 0x00 }

/-- R72 (e) (decision D25): the hardware ignores a reserved command word; the response mark is the model's
(log 9). -/
def Obligations.ReservedWordsAreIgnored : Prop :=
  ∀ (s : State) (i : Instr), s.phase = .idle →
    i ∈ [.reservedOp0, .reservedOp7, .reservedOp8, .reservedOp9, .reservedOpA, .reservedOpB, .reservedOpC,
         .reservedOpD, .reservedOpE, .reservedOpF, .reservedZeroBit] →
      exec i s = .next { s with rsp := .reservedCommand }

/-- R203: the refusals, and when they are given. -/
def Obligations.RefusalsOfMeaninglessOperands : Prop :=
  (∀ (s : State) (i : Instr), i.isHost = true → s.phase ≠ .idle → exec i s = .refused .busy) ∧
  (∀ (s : State) (k deg : Nat), s.phase = .idle → 180 < deg → exec (.servoPos k deg) s = .refused .angleOutOfRange) ∧
  (∀ (s : State) (k : Nat) (q : List Byte), q.length = 0 ∨ 2 < q.length →
    exec (.setPendingOutput k q) s = .refused .badQueueLength) ∧
  (∀ (s : State) (k : Nat), 4 ≤ k → s.phase = .idle →
    (∀ b0 b1, exec (.setPending k b0 b1) s = .refused .badSlot) ∧
    exec (.getConnected k) s = .refused .badSlot ∧ exec (.getJustConnected k) s = .refused .badSlot ∧
    exec (.getType k) s = .refused .badSlot ∧ exec (.getInput k) s = .refused .badSlot ∧
    (∀ deg ≤ 180, exec (.servoPos k deg) s = .refused .badSlot) ∧ exec (.servoLim k) s = .refused .badSlot ∧
    (∀ c, exec (.servoColor k c) s = .refused .badSlot) ∧
    (∀ r g b f, exec (.ledColor k r g b f) s = .refused .badSlot)) ∧
  (∀ (s : State) (k : Nat), 4 ≤ k →
    (∀ b, exec (.setPendingOutput k [b]) s = .refused .badSlot) ∧
    (∀ a b, exec (.setPendingOutput k [a, b]) s = .refused .badSlot) ∧
    exec (.nextOutputByte k) s = .refused .badSlot ∧ (∀ b, exec (.recordInput k b) s = .refused .badSlot) ∧
    (∀ a b, exec (.dsmStep k a b) s = .refused .badSlot))

/-- R189, R18, R210: what a host operation other than `UPDATE` can never change. -/
def Obligations.HostOperationsLeaveTheEngineAlone : Prop :=
  ∀ (s t : State) (i : Instr), i.isHost = true → i ≠ .update → exec i s = .next t →
    t.trace = s.trace ∧ t.dir = s.dir ∧ t.lvl = s.lvl ∧ t.cursor = s.cursor ∧ t.out = s.out ∧ t.cks = s.cks ∧
    t.rx = s.rx ∧ t.phase = s.phase ∧ t.widths = s.widths ∧ t.draws = s.draws ∧
    ∀ k, (t.slot k).conn = (s.slot k).conn ∧ (t.slot k).mtype = (s.slot k).mtype ∧
      (t.slot k).lastIn = (s.slot k).lastIn ∧ (t.slot k).cached = (s.slot k).cached

/-! ### ModuleState's internal operations -/

/-- R120: the internal form, with 1 or 2 bytes. -/
def Obligations.SetPendingOutputWritesOnlyTheQueue : Prop :=
  ∀ (s : State) (k : SlotIx) (q : List Byte), q.length = 1 ∨ q.length = 2 →
    exec (.setPendingOutput k q) s = .next { s with slots := s.slots.set k { s.slot k with pend := q } }

/-- R122: pop or sticky, the byte returned is the `cached` byte after the call, three calls on a two-byte
queue, the first call after reset, and no command word. -/
def Obligations.NextOutputBytePopsOrRepeats : Prop :=
  (∀ (s : State) (k : SlotIx) (b : Byte) (rest : List Byte), (s.slot k).pend = b :: rest →
    exec (.nextOutputByte k) s =
      .next { s with
        out := s.out.set k b, slots := s.slots.set k { s.slot k with pend := rest, cached := b } }) ∧
  (∀ (s : State) (k : SlotIx), (s.slot k).pend = [] →
    exec (.nextOutputByte k) s = .next { s with out := s.out.set k (s.slot k).cached }) ∧
  (∀ (s t : State) (k : SlotIx), exec (.nextOutputByte k) s = .next t → t.out.get k = (t.slot k).cached) ∧
  (∀ (s : State) (k : SlotIx) (a b : Byte), (s.slot k).pend = [a, b] →
    ∃ t u v, exec (.nextOutputByte k) s = .next t ∧ exec (.nextOutputByte k) t = .next u ∧
      exec (.nextOutputByte k) u = .next v ∧ t.out.get k = a ∧ u.out.get k = b ∧ v.out.get k = b) ∧
  (∀ (k : SlotIx), ∃ t, exec (.nextOutputByte k) State.reset = .next t ∧ t.out.get k = 0xFE) ∧
  (∀ (c : Config) (k : Nat), encode c (.nextOutputByte k) = none)

/-- R124: the byte is stored as received, with no decoding, range check or filtering. -/
def Obligations.RecordInputStoresTheByte : Prop :=
  ∀ (s : State) (k : SlotIx) (b : Byte),
    exec (.recordInput k b) s = .next { s with slots := s.slots.set k { s.slot k with lastIn := b } }

/-! ### The discovery step -/

/-- R149 (with decisions D14 to D18, D24 and D28): the whole transition table, and the parameter of
R147. -/
def Obligations.DiscoveryTransitionTable : Prop :=
  ∀ (s : State) (k : SlotIx) (sent rx : Byte),
    let sl := s.slot k
    let after : Slot :=
      match sl.conn with
      | .disconnected => if rx = 0xFE then { sl with conn := .discovered, pend := [0xFC] } else sl
      | .discovered =>
        if sent ≠ 0xFC then sl
        else if rx = 0x01 then { sl with conn := .typeKnown, mtype := .servo, justConn := true }
        else if rx = 0x02 then { sl with conn := .typeKnown, mtype := .led, justConn := true }
        else sl
      | .typeKnown =>
        if rx = 0x00 then
          { conn := .disconnected, mtype := .none, lastIn := 0x00, pend := [], cached := 0xFE, justConn := false }
        else { sl with lastIn := rx }
    exec (.dsmStep k sent rx) s =
      .next { s with slots := s.slots.set k (if s.cfg.recordAll = true then { after with lastIn := rx } else after) }

/-- R141: a module announces itself: the slot is Discovered, whatever the host had queued is discarded, the
type request is what the slot sends in the next cycle and goes on sending, whatever the replies; `sent` is
not tested. -/
def Obligations.DiscoverQueuesTheTypeRequest : Prop :=
  ∀ (s : State) (k : SlotIx) (sent : Byte), s.cfg.recordAll = false → (s.slot k).conn = .disconnected →
    let t : State := { s with slots := s.slots.set k { s.slot k with conn := .discovered, pend := [0xFC] } }
    exec (.dsmStep k sent 0xFE) s = .next t ∧
    ∀ r1 r2, (runCycles [r1] t).out.get k = 0xFC ∧ (runCycles [r1, r2] t).out.get k = 0xFC

/-- R142: a Disconnected slot that receives anything but 0xFE: nothing changes; with the parameter
`RECORD_INPUT_ALL_STATES` its `lastIn` alone is written. -/
def Obligations.DisconnectedIgnoresOtherBytes : Prop :=
  ∀ (s : State) (k : SlotIx) (sent rx : Byte), (s.slot k).conn = .disconnected → rx ≠ 0xFE →
    (s.cfg.recordAll = false → exec (.dsmStep k sent rx) s = .next s) ∧
    (s.cfg.recordAll = true →
      exec (.dsmStep k sent rx) s = .next { s with slots := s.slots.set k { s.slot k with lastIn := rx } })

/-- R64, R68, R160 step 4, R151 (log 11): a received byte code is received as any eight widths that decode
to it, and does to the register file what the discovery step of the active slot does with it. -/
def Obligations.ReceivedCodesRunTheDiscoveryStep : Prop :=
  ∀ (s : State) (i : Instr) (b : Byte),
    ((i = .discover ∧ b = 0xFE) ∨ (i = .disconnect ∧ b = 0x00) ∨ (i = .typeServo ∧ b = 0x01) ∨
      (i = .typeLed ∧ b = 0x02) ∨ i = .recordedInput b) →
    ∃ t u ws, exec i s = .next t ∧ exec (.dsmStep s.cursor (s.slot s.cursor).cached b) s = .next u ∧
      DecodesTo s.cfg.tThresh ws b ∧
      t.visible =
        { s.visible with
          slots := u.slots, dir := .input, rx := b, draws := t.draws, trace := s.trace ++ receivedEvents s.cfg ws }

/-! ### The line -/

/-- R60, R90, R64 (the levels of the start, the stop and the data bits are decisions D5 to D7): what an
operation that sends a byte does: the direction, the level left, the eleven events, and nothing else but
the transport's own registers. -/
def Obligations.SendingOperationsDriveTheirByte : Prop :=
  ∀ (s : State) (i : Instr) (v : Byte),
    (i = .sendByte v ∨ i = .lineSentByte v ∨ i = .servoPositionByte v ∨
      (i = .header ∧ v = 0xFF) ∨ (i = .noModule ∧ v = 0xFE) ∨ (i = .typeRequest ∧ v = 0xFC) ∨
      (i = .nilByte ∧ v = 0xFB) ∨ (i = .servoLimitMode ∧ v = 0xFA) ∨
      (∃ sum k, i = .checksumByte sum k ∧ v.toNat = sum.toNat * 16 + k.val) ∨
      (∃ green red, i = .ledByte1 green red ∧ v.toNat = green.toNat * 8 + red.toNat) ∨
      (∃ fade blue, i = .ledByte2 fade blue ∧ v.toNat = 0x40 + fade.toNat * 8 + blue.toNat)) →
    ∃ t, exec i s = .next t ∧
      t.visible =
        { s.visible with
          dir := .output
          lvl := s.cfg.stopLevel
          trace := s.trace
            ++ [.dir .output, .drive s.cfg.startLevel (s.cfg.startSlots * s.cfg.tBit)]
            ++ ([0, 1, 2, 3, 4, 5, 6, 7].map fun i =>
                Event.drive (if v.getLsbD i = true then s.cfg.oneLevel else s.cfg.zeroLevel) s.cfg.tBit)
            ++ [.drive s.cfg.stopLevel (s.cfg.stopSlots * s.cfg.tBit)] }

/-- R93: with different levels for 1 and 0, two bytes never give the same trace. -/
def Obligations.TraceDeterminesTheSentByte : Prop :=
  ∀ (s t t' : State) (v v' : Byte), s.cfg.oneLevel ≠ s.cfg.zeroLevel →
    exec (.sendByte v) s = .next t → exec (.sendByte v') s = .next t' → t.trace = t'.trace → v = v'

/-- R61, R94, R95: what a receive does: direction, settle delay, eight measurements whose widths are the
oracle's next answers, bit `i` of the byte is 1 exactly when width `i` exceeds the threshold; no other
event, and nothing of the register file. -/
def Obligations.ReceiveByteReadsEightWidths : Prop :=
  ∀ s : State, ∃ t, exec .receiveByte s = .next t ∧ s.answers.length = 8 ∧
    (∀ i < 8, (t.rx.getLsbD i = true ↔ s.answers.getD i 0 > s.cfg.tThresh)) ∧
    t.visible =
      { s.visible with
        dir := .input, rx := t.rx, widths := s.widths.drop 8, draws := t.draws
        trace := s.trace ++ [.dir .input, .sleep s.cfg.tSettle] ++ s.answers.map (.measure s.cfg.tTimeout ·) }

/-- R61, R97: a byte received on the line is received as eight widths that decode to it, and as nothing
else. -/
def Obligations.LineReceivedByteIsReceived : Prop :=
  ∀ (s : State) (v : Byte), ∃ t ws, exec (.lineReceivedByte v) s = .next t ∧ DecodesTo s.cfg.tThresh ws v ∧
    t.visible =
      { s.visible with
        dir := .input, rx := v, draws := t.draws, trace := s.trace ++ receivedEvents s.cfg ws }

/-- R41: in both directions bit 0 is the first on the line and bit 7 the last. -/
def Obligations.LeastSignificantBitFirstBothWays : Prop :=
  (∀ (s : State) (v : Byte), ∃ t, exec (.sendByte v) s = .next t ∧ ∀ i < 8,
    t.trace.getD (s.trace.length + 2 + i) (.sleep 0) =
      .drive (if v.getLsbD i = true then s.cfg.oneLevel else s.cfg.zeroLevel) s.cfg.tBit) ∧
  (∀ s : State, ∃ t, exec .receiveByte s = .next t ∧ ∀ i < 8, ∃ d,
    t.trace.getD (s.trace.length + 2 + i) (.sleep 0) = .measure s.cfg.tTimeout d ∧
      (t.rx.getLsbD i = true ↔ d > s.cfg.tThresh))

/-- R98 (decision D9): a measurement on a waveform never answers a width above its timeout. -/
def Obligations.MeasuredPulseFitsTheTimeout : Prop :=
  ∀ (t d : Nat) (wave rest : List Level), measureWave t .waitLow 0 wave = some (d, rest) → d ≤ t

/-! ### The checksum -/

/-- R110, R112: `compute` in its closed form, its result in `cks` and nothing else changed. -/
def Obligations.ComputeIsTheClosedForm : Prop :=
  ∀ (s : State) (out : Quad Byte) (k : SlotIx),
    let sum := out.q0.toNat + out.q1.toNat + out.q2.toNat + out.q3.toNat
    let s1 := sum + sum / 256
    exec (.compute out k) s =
      .next { s with cks := BitVec.ofNat 8 ((s1 / 16 % 16 + s1 % 16) % 16 * 16 + k.val) }

/-- R111: every accumulator of 10 bits or more gives the same byte, and one of 8 or of 9 bits does not. -/
def Obligations.TenBitAccumulatorIsEnough : Prop :=
  (∀ (w : Nat) (out : Quad Byte) (k : SlotIx), 10 ≤ w → checksumAt w out k = checksum out k) ∧
  (∃ out k, checksumAt 8 out k ≠ checksum out k) ∧ (∃ out k, checksumAt 9 out k ≠ checksum out k)

/-- R113 (a) to (d), R63: the low nibble is the slot, the high nibble does not depend on it, and only the
sum of the bytes enters. -/
def Obligations.ChecksumDependsOnlyOnSumAndSlot : Prop :=
  (∀ out k, (checksum out k).toNat % 16 = k.val) ∧
  (∀ out k k', (checksum out k).toNat / 16 = (checksum out k').toNat / 16) ∧
  (∀ (out out' : Quad Byte) (k : SlotIx),
    out.q0.toNat + out.q1.toNat + out.q2.toNat + out.q3.toNat
      = out'.q0.toNat + out'.q1.toNat + out'.q2.toNat + out'.q3.toNat →
    checksum out k = checksum out' k)

/-! ### The cycle -/

/-- R160, R166: `UPDATE` as a function of the register file, the cursor and the reply byte: it ends in that
register file and cursor, its frame is on the line, and nothing else changes but the frame registers, the
line and the oracle. -/
def Obligations.UpdateIsTheCycleFunction : Prop :=
  ∀ s : State, s.phase = .idle →
    let r := cycle s.cfg.recordAll s.slots s.cursor s.reply
    ∃ t, exec .update s = .next t ∧
      t.visible =
        { s.visible with
          slots := r.slots
          cursor := r.cursor
          out := outputsOf s.slots
          cks := checksum (outputsOf s.slots) s.cursor
          rx := s.reply
          dir := .input
          lvl := s.cfg.stopLevel
          rsp := .silent
          trace := s.trace ++ r.frame.flatMap (sentEvents s.cfg) ++ receivedEvents s.cfg s.answers
          widths := s.widths.drop 8
          draws := t.draws }

/-- R160: `UPDATE` is the internal operations, one after the other in the order of its pseudocode. -/
def Obligations.UpdateRunsTheInternalOperationsInOrder : Prop :=
  ∀ s : State, s.phase = .idle →
    exec .update s =
      andThen (exec (.sendByte 0xFF) s) fun s =>
      andThen (exec (.nextOutputByte 0) s) fun s => andThen (exec (.sendByte (s.out.get 0)) s) fun s =>
      andThen (exec (.nextOutputByte 1) s) fun s => andThen (exec (.sendByte (s.out.get 1)) s) fun s =>
      andThen (exec (.nextOutputByte 2) s) fun s => andThen (exec (.sendByte (s.out.get 2)) s) fun s =>
      andThen (exec (.nextOutputByte 3) s) fun s => andThen (exec (.sendByte (s.out.get 3)) s) fun s =>
      andThen (exec (.compute s.out s.cursor) s) fun s => andThen (exec (.sendByte s.cks) s) fun s =>
      andThen (exec .receiveByte s) fun s =>
      andThen (exec (.dsmStep s.cursor (s.out.get s.cursor) s.rx) s) fun s =>
      .next { s with cursor := s.cursor + 1, rsp := .silent }

/-- R21, R44: a cycle run phase by phase, accepted at the pins, ends after nine steps in the very state the
one atomic `UPDATE` gives. -/
def Obligations.PhasesMakeTheAtomicCycle : Prop :=
  ∀ (s : State) (rest : List Input), s.phase = .idle → rest.head? ≠ some .rst →
    runSteps 9 { s with inputs := .updateStart :: rest } =
      step { s with inputs := .word ⟨.host, 0x100000⟩ :: rest }

/-- R42: the order of the bytes of a cycle, whatever the cursor: the header, the four output bytes in index
order, the checksum, and then one reply, which belongs to the active slot. -/
def Obligations.CycleSendsItsBytesInOrder : Prop :=
  ∀ s : State, s.phase = .idle → ∃ t, exec .update s = .next t ∧
    t.trace = s.trace ++ sentEvents s.cfg 0xFF
      ++ sentEvents s.cfg (t.out.get 0) ++ sentEvents s.cfg (t.out.get 1) ++ sentEvents s.cfg (t.out.get 2)
      ++ sentEvents s.cfg (t.out.get 3) ++ sentEvents s.cfg t.cks
      ++ ([.dir .input, .sleep s.cfg.tSettle] ++ s.answers.map (.measure s.cfg.tTimeout ·)) ∧
    t.cks = checksum t.out s.cursor ∧ DecodesTo s.cfg.tThresh s.answers t.rx ∧
    ∀ k, k ≠ s.cursor → (t.slot k).conn = (s.slot k).conn ∧ (t.slot k).lastIn = (s.slot k).lastIn

/-- R62 (log 11): the seven bytes of a given frame on the line, and nothing of the register file or the
cursor. -/
def Obligations.FramePutsItsBytesOnTheLine : Prop :=
  ∀ (s : State) (o : Quad Byte) (sum : BitVec 4) (k : SlotIx) (r : Byte),
    ∃ (t : State) (cks : Byte) (ws : List Nat),
      exec (.frame o sum k r) s = .next t ∧ cks.toNat = sum.toNat * 16 + k.val ∧ DecodesTo s.cfg.tThresh ws r ∧
      t.visible =
        { s.visible with
          out := o, cks := cks, rx := r, dir := .input, lvl := s.cfg.stopLevel, draws := t.draws
          trace := s.trace ++ [0xFF, o.q0, o.q1, o.q2, o.q3, cks].flatMap (sentEvents s.cfg)
            ++ receivedEvents s.cfg ws }

/-- R148, R16 (a): in a cycle a slot that is not active does nothing but send its output byte. -/
def Obligations.PassiveSlotsOnlySend : Prop :=
  ∀ s : State, s.phase = .idle → ∃ t, exec .update s = .next t ∧
    ∀ k, k ≠ s.cursor →
      t.slot k = { s.slot k with pend := (s.slot k).pend.tail, cached := t.out.get k } ∧
      t.out.get k = (s.slot k).pend.headD (s.slot k).cached

/-- R148: what a cycle makes of a slot does not depend on the other slots. -/
def Obligations.SlotsDoNotInfluenceEachOther : Prop :=
  ∀ (s s' t t' : State) (k : SlotIx),
    s.cfg = s'.cfg → s.cursor = s'.cursor → s.reply = s'.reply → s.slot k = s'.slot k →
    exec .update s = .next t → exec .update s' = .next t' → t.slot k = t'.slot k ∧ t.out.get k = t'.out.get k

/-- R97: two replies whose widths lie on the same sides of the threshold lead to the same state, but for
the trace and the transport's own registers. -/
def Obligations.OnlyTheReplyByteMatters : Prop :=
  ∀ (s : State) (ws ws' rest : List Nat), s.phase = .idle → ws.length = 8 → ws'.length = 8 →
    (∀ i < 8, (ws.getD i 0 > s.cfg.tThresh ↔ ws'.getD i 0 > s.cfg.tThresh)) →
    ∃ t t', exec .update { s with widths := ws ++ rest } = .next t ∧
      exec .update { s with widths := ws' ++ rest } = .next t' ∧
      { t.visible with trace := [] } = { t'.visible with trace := [] }

/-- R241: a silent line, every measurement a timeout or too short, resets a TypeKnown active slot. -/
def Obligations.SilentLineDisconnectsTheActiveSlot : Prop :=
  ∀ s : State, s.phase = .idle → (∀ d ∈ s.answers, d ≤ s.cfg.tThresh) → (s.slot s.cursor).conn = .typeKnown →
    ∃ t, exec .update s = .next t ∧ t.rx = 0x00 ∧
      t.slot s.cursor =
        { conn := .disconnected, mtype := .none, lastIn := 0x00, pend := [], cached := 0xFE, justConn := false }

/-- R162, R20: the cursor advances by one in every cycle, whatever the replies, and wraps after slot 3. -/
def Obligations.RoundRobinNeverSkips : Prop :=
  ∀ (replies : List Byte) (s : State),
    (runCycles replies s).cursor.val = (s.cursor.val + replies.length) % 4

/-- R123: over any number of cycles, a slot with nothing pending, in any connection state, goes on sending its
last byte, as long as no reply in a cycle in which it is the active one announces it or disconnects it; the
other slots may answer anything. A TypeKnown slot stays TypeKnown when those replies of its own are not 0x00. -/
def Obligations.OutputIsSticky : Prop :=
  (∀ (replies : List Byte) (s : State) (k : SlotIx),
    (s.slot k).pend = [] → Undisturbed k replies s →
    ((runCycles replies s).slot k).pend = [] ∧ ((runCycles replies s).slot k).cached = (s.slot k).cached ∧
    (replies ≠ [] → (runCycles replies s).out.get k = (s.slot k).cached)) ∧
  (∀ (replies : List Byte) (s : State) (k : SlotIx),
    (s.slot k).conn = .typeKnown → (s.slot k).pend = [] →
    (∀ n r, replies[n]? = some r → activeAfter n s = k → r ≠ 0x00) →
    ((runCycles replies s).slot k).conn = .typeKnown ∧ ((runCycles replies s).slot k).pend = [] ∧
    ((runCycles replies s).slot k).cached = (s.slot k).cached ∧
    (replies ≠ [] → (runCycles replies s).out.get k = (s.slot k).cached))

/-- R43: a two-byte output of a slot in any connection state goes out first byte first, in two successive
cycles, in the slot's own place: the first byte whatever the replies, the second whatever the second reply, as
long as the first one did not announce or disconnect the slot; and nothing is pending after it unless the
second reply did. -/
def Obligations.TwoByteOutputKeepsItsOrder : Prop :=
  ∀ (s : State) (k : SlotIx) (a b r1 r2 : Byte), (s.slot k).pend = [a, b] →
    (runCycles [r1] s).out.get k = a ∧
    (Undisturbed k [r1] s → (runCycles [r1, r2] s).out.get k = b) ∧
    (Undisturbed k [r1, r2] s →
      ((runCycles [r1, r2] s).slot k).pend = [] ∧ ((runCycles [r1, r2] s).slot k).cached = b)

/-- R150: the shortest discovery takes five cycles, whatever the other slots answer meanwhile, and four
modules are known after eight. -/
def Obligations.DiscoveryCompletesInFiveCycles : Prop :=
  (∀ (s : State) (r1 r2 r3 code : Byte), (s.slot s.cursor).conn = .disconnected → code = 0x01 ∨ code = 0x02 →
    let sl := (runCycles [0xFE, r1, r2, r3, code] s).slot s.cursor
    sl.conn = .typeKnown ∧ sl.mtype = (if code = 0x01 then .servo else .led) ∧ sl.justConn = true) ∧
  (∀ (s : State) (c0 c1 c2 c3 : Byte), (∀ k, (s.slot k).conn = .disconnected) →
    (∀ c ∈ [c0, c1, c2, c3], c = 0x01 ∨ c = 0x02) →
    ∀ k, ((runCycles [0xFE, 0xFE, 0xFE, 0xFE, c0, c1, c2, c3] s).slot k).conn = .typeKnown)

/-- R167, R251 (the constants are the source's, the slot counts decisions D5 and D7): with the default
parameters a cycle adds 76 events, and the master's own timers take 29022 microseconds. -/
def Obligations.DefaultCycleHasSeventySixEvents : Prop :=
  ∀ s : State, s.phase = .idle → s.cfg = {} → ∃ t es, exec .update s = .next t ∧ t.trace = s.trace ++ es ∧
    es.length = 76 ∧ ownTime es = 29022

/-! ### Invariants of every step -/

/-- R16 (b), (c), (d): every operation, the internal ones too, and every step keeps the register file's
invariants. -/
def Obligations.EveryStepKeepsTheRegisterFile : Prop :=
  (∀ (i : Instr) (s t : State), RegisterFileOk s → exec i s = .next t → RegisterFileOk t) ∧
  (∀ s t : State, RegisterFileOk s → step s = .next t → RegisterFileOk t)

/-- R54: in every step the line is driven only while the direction is OUT and measured only while it is
IN. -/
def Obligations.EveryStepKeepsTheLineDiscipline : Prop :=
  ∀ s t : State, LineOk s → step s = .next t → LineOk t

/-- R101, R22, R16 (a), R40: while only the host acts, the direction is OUT exactly from the first sent byte
to the receive, IN between cycles, and the byte sent to a slot is its `cached` byte. -/
def Obligations.EveryStepKeepsTheBus : Prop :=
  ∀ s t : State, BusOk s → step s = .next t → BusOk t

/-- R13, R188 (decision D15): every step keeps a slot that is not TypeKnown without an input byte. -/
def Obligations.EveryStepKeepsInputForKnownSlots : Prop :=
  ∀ s t : State, InputOnlyWhenKnown s → step s = .next t → InputOnlyWhenKnown t

/-- R28: the invariants hold after reset. -/
def Obligations.ResetMeetsTheInvariants : Prop :=
  RegisterFileOk State.reset ∧ LineOk State.reset ∧ BusOk State.reset ∧ InputOnlyWhenKnown State.reset

/-- R11, R12: in every step but a reset each slot's connection state stays or takes one of the three
transitions, and the type of a slot that stays TypeKnown does not change. -/
def Obligations.OnlyThreeConnectionTransitions : Prop :=
  ∀ s t : State, s.inputs.head? ≠ some .rst → step s = .next t → ∀ k,
    connStep (s.slot k).conn (t.slot k).conn = true ∧
    ((s.slot k).conn = .typeKnown → (t.slot k).conn = .typeKnown → (t.slot k).mtype = (s.slot k).mtype)

/-- R27, R26: no step writes a build-time parameter, and every step but a reset only adds to the trace. -/
def Obligations.StepsKeepParametersAndHistory : Prop :=
  ∀ s t : State, step s = .next t →
    t.cfg = s.cfg ∧ (s.inputs.head? ≠ some .rst → ∃ es, t.trace = s.trace ++ es)
end

