-- ==== Sys2Proof/Laws/Quad.lean ====
section
/-! SUPPORT. The laws of a group of four: a read after a write, and extensionality. -/

namespace Sys2Proof

@[simp] theorem Quad.get_set_same {α : Type} (q : Quad α) (k : SlotIx) (a : α) : (q.set k a).get k = a := by
  match k with
  | 0 | 1 | 2 | 3 => rfl

theorem Quad.get_set_ne {α : Type} (q : Quad α) {j k : SlotIx} (a : α) (h : j ≠ k) :
    (q.set k a).get j = q.get j := by
  match j, k with
  | 0, 0 | 1, 1 | 2, 2 | 3, 3 => exact absurd rfl h
  | 0, 1 | 0, 2 | 0, 3 | 1, 0 | 1, 2 | 1, 3 | 2, 0 | 2, 1 | 2, 3 | 3, 0 | 3, 1 | 3, 2 => rfl

theorem Quad.get_set {α : Type} (q : Quad α) (j k : SlotIx) (a : α) :
    (q.set k a).get j = if j = k then a else q.get j := by
  split
  · next h => subst h; exact Quad.get_set_same q j a
  · next h => exact Quad.get_set_ne q a h

theorem Quad.ext_get {α : Type} {p q : Quad α} (h : ∀ k, p.get k = q.get k) : p = q := by
  obtain ⟨p0, p1, p2, p3⟩ := p
  obtain ⟨q0, q1, q2, q3⟩ := q
  have h0 : p0 = q0 := h 0
  have h1 : p1 = q1 := h 1
  have h2 : p2 = q2 := h 2
  have h3 : p3 = q3 := h 3
  rw [h0, h1, h2, h3]

@[simp] theorem Quad.set_get {α : Type} (q : Quad α) (k : SlotIx) : q.set k (q.get k) = q := by
  match k with
  | 0 | 1 | 2 | 3 => rfl

end Sys2Proof
end

