-- ==== Sys2Proof/Laws/State.lean ====
section
/-! SUPPORT. What each shared update does to each field of the state. -/

namespace Sys2Proof.Machine

variable (s : State)

/-! ### `respond` -/

@[simp] theorem respond_slots (r : Response) : (respond r s).slots = s.slots := rfl
@[simp] theorem respond_cursor (r : Response) : (respond r s).cursor = s.cursor := rfl
@[simp] theorem respond_phase (r : Response) : (respond r s).phase = s.phase := rfl
@[simp] theorem respond_dir (r : Response) : (respond r s).dir = s.dir := rfl
@[simp] theorem respond_lvl (r : Response) : (respond r s).lvl = s.lvl := rfl
@[simp] theorem respond_out (r : Response) : (respond r s).out = s.out := rfl
@[simp] theorem respond_cks (r : Response) : (respond r s).cks = s.cks := rfl
@[simp] theorem respond_rx (r : Response) : (respond r s).rx = s.rx := rfl
@[simp] theorem respond_shift (r : Response) : (respond r s).shift = s.shift := rfl
@[simp] theorem respond_bitIx (r : Response) : (respond r s).bitIx = s.bitIx := rfl
@[simp] theorem respond_timer (r : Response) : (respond r s).timer = s.timer := rfl
@[simp] theorem respond_rsp (r : Response) : (respond r s).rsp = r := rfl
@[simp] theorem respond_trace (r : Response) : (respond r s).trace = s.trace := rfl
@[simp] theorem respond_cfg (r : Response) : (respond r s).cfg = s.cfg := rfl
@[simp] theorem respond_inputs (r : Response) : (respond r s).inputs = s.inputs := rfl
@[simp] theorem respond_widths (r : Response) : (respond r s).widths = s.widths := rfl
@[simp] theorem respond_draws (r : Response) : (respond r s).draws = s.draws := rfl

/-! ### `enterPhase` -/

@[simp] theorem enterPhase_slots (p : Phase) : (enterPhase p s).slots = s.slots := rfl
@[simp] theorem enterPhase_cursor (p : Phase) : (enterPhase p s).cursor = s.cursor := rfl
@[simp] theorem enterPhase_phase (p : Phase) : (enterPhase p s).phase = p := rfl
@[simp] theorem enterPhase_dir (p : Phase) : (enterPhase p s).dir = s.dir := rfl
@[simp] theorem enterPhase_lvl (p : Phase) : (enterPhase p s).lvl = s.lvl := rfl
@[simp] theorem enterPhase_out (p : Phase) : (enterPhase p s).out = s.out := rfl
@[simp] theorem enterPhase_cks (p : Phase) : (enterPhase p s).cks = s.cks := rfl
@[simp] theorem enterPhase_rx (p : Phase) : (enterPhase p s).rx = s.rx := rfl
@[simp] theorem enterPhase_shift (p : Phase) : (enterPhase p s).shift = s.shift := rfl
@[simp] theorem enterPhase_bitIx (p : Phase) : (enterPhase p s).bitIx = s.bitIx := rfl
@[simp] theorem enterPhase_timer (p : Phase) : (enterPhase p s).timer = s.timer := rfl
@[simp] theorem enterPhase_rsp (p : Phase) : (enterPhase p s).rsp = s.rsp := rfl
@[simp] theorem enterPhase_trace (p : Phase) : (enterPhase p s).trace = s.trace := rfl
@[simp] theorem enterPhase_cfg (p : Phase) : (enterPhase p s).cfg = s.cfg := rfl
@[simp] theorem enterPhase_inputs (p : Phase) : (enterPhase p s).inputs = s.inputs := rfl
@[simp] theorem enterPhase_widths (p : Phase) : (enterPhase p s).widths = s.widths := rfl
@[simp] theorem enterPhase_draws (p : Phase) : (enterPhase p s).draws = s.draws := rfl

/-! ### `emit` -/

@[simp] theorem emit_slots (e : Event) : (emit e s).slots = s.slots := rfl
@[simp] theorem emit_cursor (e : Event) : (emit e s).cursor = s.cursor := rfl
@[simp] theorem emit_phase (e : Event) : (emit e s).phase = s.phase := rfl
@[simp] theorem emit_dir (e : Event) : (emit e s).dir = s.dir := rfl
@[simp] theorem emit_lvl (e : Event) : (emit e s).lvl = s.lvl := rfl
@[simp] theorem emit_out (e : Event) : (emit e s).out = s.out := rfl
@[simp] theorem emit_cks (e : Event) : (emit e s).cks = s.cks := rfl
@[simp] theorem emit_rx (e : Event) : (emit e s).rx = s.rx := rfl
@[simp] theorem emit_shift (e : Event) : (emit e s).shift = s.shift := rfl
@[simp] theorem emit_bitIx (e : Event) : (emit e s).bitIx = s.bitIx := rfl
@[simp] theorem emit_timer (e : Event) : (emit e s).timer = s.timer := rfl
@[simp] theorem emit_rsp (e : Event) : (emit e s).rsp = s.rsp := rfl
@[simp] theorem emit_trace (e : Event) : (emit e s).trace = s.trace ++ [e] := rfl
@[simp] theorem emit_cfg (e : Event) : (emit e s).cfg = s.cfg := rfl
@[simp] theorem emit_inputs (e : Event) : (emit e s).inputs = s.inputs := rfl
@[simp] theorem emit_widths (e : Event) : (emit e s).widths = s.widths := rfl
@[simp] theorem emit_draws (e : Event) : (emit e s).draws = s.draws := rfl

/-! ### `setDir` -/

@[simp] theorem setDir_slots (d : Dir) : (setDir d s).slots = s.slots := rfl
@[simp] theorem setDir_cursor (d : Dir) : (setDir d s).cursor = s.cursor := rfl
@[simp] theorem setDir_phase (d : Dir) : (setDir d s).phase = s.phase := rfl
@[simp] theorem setDir_dir (d : Dir) : (setDir d s).dir = d := rfl
@[simp] theorem setDir_lvl (d : Dir) : (setDir d s).lvl = s.lvl := rfl
@[simp] theorem setDir_out (d : Dir) : (setDir d s).out = s.out := rfl
@[simp] theorem setDir_cks (d : Dir) : (setDir d s).cks = s.cks := rfl
@[simp] theorem setDir_rx (d : Dir) : (setDir d s).rx = s.rx := rfl
@[simp] theorem setDir_shift (d : Dir) : (setDir d s).shift = s.shift := rfl
@[simp] theorem setDir_bitIx (d : Dir) : (setDir d s).bitIx = s.bitIx := rfl
@[simp] theorem setDir_timer (d : Dir) : (setDir d s).timer = s.timer := rfl
@[simp] theorem setDir_rsp (d : Dir) : (setDir d s).rsp = s.rsp := rfl
@[simp] theorem setDir_trace (d : Dir) : (setDir d s).trace = s.trace ++ [.dir d] := rfl
@[simp] theorem setDir_cfg (d : Dir) : (setDir d s).cfg = s.cfg := rfl
@[simp] theorem setDir_inputs (d : Dir) : (setDir d s).inputs = s.inputs := rfl
@[simp] theorem setDir_widths (d : Dir) : (setDir d s).widths = s.widths := rfl
@[simp] theorem setDir_draws (d : Dir) : (setDir d s).draws = s.draws := rfl

/-! ### `drive` -/

@[simp] theorem drive_slots (l : Level) (t : Nat) : (drive l t s).slots = s.slots := rfl
@[simp] theorem drive_cursor (l : Level) (t : Nat) : (drive l t s).cursor = s.cursor := rfl
@[simp] theorem drive_phase (l : Level) (t : Nat) : (drive l t s).phase = s.phase := rfl
@[simp] theorem drive_dir (l : Level) (t : Nat) : (drive l t s).dir = s.dir := rfl
@[simp] theorem drive_lvl (l : Level) (t : Nat) : (drive l t s).lvl = l := rfl
@[simp] theorem drive_out (l : Level) (t : Nat) : (drive l t s).out = s.out := rfl
@[simp] theorem drive_cks (l : Level) (t : Nat) : (drive l t s).cks = s.cks := rfl
@[simp] theorem drive_rx (l : Level) (t : Nat) : (drive l t s).rx = s.rx := rfl
@[simp] theorem drive_shift (l : Level) (t : Nat) : (drive l t s).shift = s.shift := rfl
@[simp] theorem drive_bitIx (l : Level) (t : Nat) : (drive l t s).bitIx = s.bitIx := rfl
@[simp] theorem drive_timer (l : Level) (t : Nat) : (drive l t s).timer = t := rfl
@[simp] theorem drive_rsp (l : Level) (t : Nat) : (drive l t s).rsp = s.rsp := rfl
@[simp] theorem drive_trace (l : Level) (t : Nat) : (drive l t s).trace = s.trace ++ [.drive l t] := rfl
@[simp] theorem drive_cfg (l : Level) (t : Nat) : (drive l t s).cfg = s.cfg := rfl
@[simp] theorem drive_inputs (l : Level) (t : Nat) : (drive l t s).inputs = s.inputs := rfl
@[simp] theorem drive_widths (l : Level) (t : Nat) : (drive l t s).widths = s.widths := rfl
@[simp] theorem drive_draws (l : Level) (t : Nat) : (drive l t s).draws = s.draws := rfl

/-! ### `sleep` -/

@[simp] theorem sleep_slots (t : Nat) : (sleep t s).slots = s.slots := rfl
@[simp] theorem sleep_cursor (t : Nat) : (sleep t s).cursor = s.cursor := rfl
@[simp] theorem sleep_phase (t : Nat) : (sleep t s).phase = s.phase := rfl
@[simp] theorem sleep_dir (t : Nat) : (sleep t s).dir = s.dir := rfl
@[simp] theorem sleep_lvl (t : Nat) : (sleep t s).lvl = s.lvl := rfl
@[simp] theorem sleep_out (t : Nat) : (sleep t s).out = s.out := rfl
@[simp] theorem sleep_cks (t : Nat) : (sleep t s).cks = s.cks := rfl
@[simp] theorem sleep_rx (t : Nat) : (sleep t s).rx = s.rx := rfl
@[simp] theorem sleep_shift (t : Nat) : (sleep t s).shift = s.shift := rfl
@[simp] theorem sleep_bitIx (t : Nat) : (sleep t s).bitIx = s.bitIx := rfl
@[simp] theorem sleep_timer (t : Nat) : (sleep t s).timer = t := rfl
@[simp] theorem sleep_rsp (t : Nat) : (sleep t s).rsp = s.rsp := rfl
@[simp] theorem sleep_trace (t : Nat) : (sleep t s).trace = s.trace ++ [.sleep t] := rfl
@[simp] theorem sleep_cfg (t : Nat) : (sleep t s).cfg = s.cfg := rfl
@[simp] theorem sleep_inputs (t : Nat) : (sleep t s).inputs = s.inputs := rfl
@[simp] theorem sleep_widths (t : Nat) : (sleep t s).widths = s.widths := rfl
@[simp] theorem sleep_draws (t : Nat) : (sleep t s).draws = s.draws := rfl

/-! ### `putSlot` -/

@[simp] theorem putSlot_slots (k : SlotIx) (sl : Slot) : (putSlot k sl s).slots = s.slots.set k sl := rfl
@[simp] theorem putSlot_cursor (k : SlotIx) (sl : Slot) : (putSlot k sl s).cursor = s.cursor := rfl
@[simp] theorem putSlot_phase (k : SlotIx) (sl : Slot) : (putSlot k sl s).phase = s.phase := rfl
@[simp] theorem putSlot_dir (k : SlotIx) (sl : Slot) : (putSlot k sl s).dir = s.dir := rfl
@[simp] theorem putSlot_lvl (k : SlotIx) (sl : Slot) : (putSlot k sl s).lvl = s.lvl := rfl
@[simp] theorem putSlot_out (k : SlotIx) (sl : Slot) : (putSlot k sl s).out = s.out := rfl
@[simp] theorem putSlot_cks (k : SlotIx) (sl : Slot) : (putSlot k sl s).cks = s.cks := rfl
@[simp] theorem putSlot_rx (k : SlotIx) (sl : Slot) : (putSlot k sl s).rx = s.rx := rfl
@[simp] theorem putSlot_shift (k : SlotIx) (sl : Slot) : (putSlot k sl s).shift = s.shift := rfl
@[simp] theorem putSlot_bitIx (k : SlotIx) (sl : Slot) : (putSlot k sl s).bitIx = s.bitIx := rfl
@[simp] theorem putSlot_timer (k : SlotIx) (sl : Slot) : (putSlot k sl s).timer = s.timer := rfl
@[simp] theorem putSlot_rsp (k : SlotIx) (sl : Slot) : (putSlot k sl s).rsp = s.rsp := rfl
@[simp] theorem putSlot_trace (k : SlotIx) (sl : Slot) : (putSlot k sl s).trace = s.trace := rfl
@[simp] theorem putSlot_cfg (k : SlotIx) (sl : Slot) : (putSlot k sl s).cfg = s.cfg := rfl
@[simp] theorem putSlot_inputs (k : SlotIx) (sl : Slot) : (putSlot k sl s).inputs = s.inputs := rfl
@[simp] theorem putSlot_widths (k : SlotIx) (sl : Slot) : (putSlot k sl s).widths = s.widths := rfl
@[simp] theorem putSlot_draws (k : SlotIx) (sl : Slot) : (putSlot k sl s).draws = s.draws := rfl

/-! ### `onSlot` -/

@[simp] theorem onSlot_slots (k : SlotIx) (f : Slot → Slot) : (onSlot k f s).slots = s.slots.set k (f (s.slot k)) := rfl
@[simp] theorem onSlot_cursor (k : SlotIx) (f : Slot → Slot) : (onSlot k f s).cursor = s.cursor := rfl
@[simp] theorem onSlot_phase (k : SlotIx) (f : Slot → Slot) : (onSlot k f s).phase = s.phase := rfl
@[simp] theorem onSlot_dir (k : SlotIx) (f : Slot → Slot) : (onSlot k f s).dir = s.dir := rfl
@[simp] theorem onSlot_lvl (k : SlotIx) (f : Slot → Slot) : (onSlot k f s).lvl = s.lvl := rfl
@[simp] theorem onSlot_out (k : SlotIx) (f : Slot → Slot) : (onSlot k f s).out = s.out := rfl
@[simp] theorem onSlot_cks (k : SlotIx) (f : Slot → Slot) : (onSlot k f s).cks = s.cks := rfl
@[simp] theorem onSlot_rx (k : SlotIx) (f : Slot → Slot) : (onSlot k f s).rx = s.rx := rfl
@[simp] theorem onSlot_shift (k : SlotIx) (f : Slot → Slot) : (onSlot k f s).shift = s.shift := rfl
@[simp] theorem onSlot_bitIx (k : SlotIx) (f : Slot → Slot) : (onSlot k f s).bitIx = s.bitIx := rfl
@[simp] theorem onSlot_timer (k : SlotIx) (f : Slot → Slot) : (onSlot k f s).timer = s.timer := rfl
@[simp] theorem onSlot_rsp (k : SlotIx) (f : Slot → Slot) : (onSlot k f s).rsp = s.rsp := rfl
@[simp] theorem onSlot_trace (k : SlotIx) (f : Slot → Slot) : (onSlot k f s).trace = s.trace := rfl
@[simp] theorem onSlot_cfg (k : SlotIx) (f : Slot → Slot) : (onSlot k f s).cfg = s.cfg := rfl
@[simp] theorem onSlot_inputs (k : SlotIx) (f : Slot → Slot) : (onSlot k f s).inputs = s.inputs := rfl
@[simp] theorem onSlot_widths (k : SlotIx) (f : Slot → Slot) : (onSlot k f s).widths = s.widths := rfl
@[simp] theorem onSlot_draws (k : SlotIx) (f : Slot → Slot) : (onSlot k f s).draws = s.draws := rfl

/-! ### `supplyReply` -/

@[simp] theorem supplyReply_slots (v : Byte) : (supplyReply v s).slots = s.slots := rfl
@[simp] theorem supplyReply_cursor (v : Byte) : (supplyReply v s).cursor = s.cursor := rfl
@[simp] theorem supplyReply_phase (v : Byte) : (supplyReply v s).phase = s.phase := rfl
@[simp] theorem supplyReply_dir (v : Byte) : (supplyReply v s).dir = s.dir := rfl
@[simp] theorem supplyReply_lvl (v : Byte) : (supplyReply v s).lvl = s.lvl := rfl
@[simp] theorem supplyReply_out (v : Byte) : (supplyReply v s).out = s.out := rfl
@[simp] theorem supplyReply_cks (v : Byte) : (supplyReply v s).cks = s.cks := rfl
@[simp] theorem supplyReply_rx (v : Byte) : (supplyReply v s).rx = s.rx := rfl
@[simp] theorem supplyReply_shift (v : Byte) : (supplyReply v s).shift = s.shift := rfl
@[simp] theorem supplyReply_bitIx (v : Byte) : (supplyReply v s).bitIx = s.bitIx := rfl
@[simp] theorem supplyReply_timer (v : Byte) : (supplyReply v s).timer = s.timer := rfl
@[simp] theorem supplyReply_rsp (v : Byte) : (supplyReply v s).rsp = s.rsp := rfl
@[simp] theorem supplyReply_trace (v : Byte) : (supplyReply v s).trace = s.trace := rfl
@[simp] theorem supplyReply_cfg (v : Byte) : (supplyReply v s).cfg = s.cfg := rfl
@[simp] theorem supplyReply_inputs (v : Byte) : (supplyReply v s).inputs = s.inputs := rfl
@[simp] theorem supplyReply_widths (v : Byte) : (supplyReply v s).widths = widthsOfByte s.cfg.tThresh s.draws v ++ s.widths := rfl
@[simp] theorem supplyReply_draws (v : Byte) : (supplyReply v s).draws = s.draws + 8 := rfl

/-! ### `advanceCursor` -/

@[simp] theorem advanceCursor_slots : (advanceCursor s).slots = s.slots := rfl
@[simp] theorem advanceCursor_cursor : (advanceCursor s).cursor = s.cursor + 1 := rfl
@[simp] theorem advanceCursor_phase : (advanceCursor s).phase = s.phase := rfl
@[simp] theorem advanceCursor_dir : (advanceCursor s).dir = s.dir := rfl
@[simp] theorem advanceCursor_lvl : (advanceCursor s).lvl = s.lvl := rfl
@[simp] theorem advanceCursor_out : (advanceCursor s).out = s.out := rfl
@[simp] theorem advanceCursor_cks : (advanceCursor s).cks = s.cks := rfl
@[simp] theorem advanceCursor_rx : (advanceCursor s).rx = s.rx := rfl
@[simp] theorem advanceCursor_shift : (advanceCursor s).shift = s.shift := rfl
@[simp] theorem advanceCursor_bitIx : (advanceCursor s).bitIx = s.bitIx := rfl
@[simp] theorem advanceCursor_timer : (advanceCursor s).timer = s.timer := rfl
@[simp] theorem advanceCursor_rsp : (advanceCursor s).rsp = s.rsp := rfl
@[simp] theorem advanceCursor_trace : (advanceCursor s).trace = s.trace := rfl
@[simp] theorem advanceCursor_cfg : (advanceCursor s).cfg = s.cfg := rfl
@[simp] theorem advanceCursor_inputs : (advanceCursor s).inputs = s.inputs := rfl
@[simp] theorem advanceCursor_widths : (advanceCursor s).widths = s.widths := rfl
@[simp] theorem advanceCursor_draws : (advanceCursor s).draws = s.draws := rfl

/-! ### `resetMachine` -/

@[simp] theorem resetMachine_slots : (resetMachine s).slots = State.reset.slots := rfl
@[simp] theorem resetMachine_cursor : (resetMachine s).cursor = State.reset.cursor := rfl
@[simp] theorem resetMachine_phase : (resetMachine s).phase = State.reset.phase := rfl
@[simp] theorem resetMachine_dir : (resetMachine s).dir = State.reset.dir := rfl
@[simp] theorem resetMachine_lvl : (resetMachine s).lvl = State.reset.lvl := rfl
@[simp] theorem resetMachine_out : (resetMachine s).out = State.reset.out := rfl
@[simp] theorem resetMachine_cks : (resetMachine s).cks = State.reset.cks := rfl
@[simp] theorem resetMachine_rx : (resetMachine s).rx = State.reset.rx := rfl
@[simp] theorem resetMachine_shift : (resetMachine s).shift = State.reset.shift := rfl
@[simp] theorem resetMachine_bitIx : (resetMachine s).bitIx = State.reset.bitIx := rfl
@[simp] theorem resetMachine_timer : (resetMachine s).timer = State.reset.timer := rfl
@[simp] theorem resetMachine_rsp : (resetMachine s).rsp = State.reset.rsp := rfl
@[simp] theorem resetMachine_trace : (resetMachine s).trace = State.reset.trace := rfl
@[simp] theorem resetMachine_cfg : (resetMachine s).cfg = s.cfg := rfl
@[simp] theorem resetMachine_inputs : (resetMachine s).inputs = s.inputs := rfl
@[simp] theorem resetMachine_widths : (resetMachine s).widths = s.widths := rfl
@[simp] theorem resetMachine_draws : (resetMachine s).draws = s.draws := rfl

/-! ### Reading a slot -/

@[simp] theorem slot_respond (r : Response) (k : SlotIx) : (respond r s).slot k = s.slot k := rfl

@[simp] theorem slot_enterPhase (p : Phase) (k : SlotIx) : (enterPhase p s).slot k = s.slot k := rfl

@[simp] theorem slot_supplyReply (v : Byte) (k : SlotIx) : (supplyReply v s).slot k = s.slot k := rfl

@[simp] theorem slot_putSlot_same (k : SlotIx) (sl : Slot) : (putSlot k sl s).slot k = sl :=
  Quad.get_set_same s.slots k sl

theorem slot_putSlot (j k : SlotIx) (sl : Slot) :
    (putSlot k sl s).slot j = if j = k then sl else s.slot j :=
  Quad.get_set s.slots j k sl

theorem slot_onSlot (j k : SlotIx) (f : Slot → Slot) :
    (onSlot k f s).slot j = if j = k then f (s.slot k) else s.slot j :=
  Quad.get_set s.slots j k (f (s.slot k))

end Sys2Proof.Machine
end

