-- ==== Sys2Proof/Laws/Transport.lean ====
section
/-! SUPPORT. The spec lemmas of the transport: everything `sendByte` and `receiveByte` do, once. -/

namespace Sys2Proof.Machine

/-- Everything `sendByte` does (R90). -/
theorem sendByte_eq (v : Byte) (s : State) :
    sendByte v s =
      { s with dir := .output, lvl := s.cfg.stopLevel, shift := 0, bitIx := 7,
               timer := s.cfg.stopSlots * s.cfg.tBit, trace := s.trace ++ sentEvents s.cfg v } := by
  have hshift : v >>> 8 = 0#8 := by revert v; decide
  simp [sendByte, bitPositions, sendBit, setDir, drive, emit, sentEvents, List.range_succ, hshift]

/-! ### The oracle's answers -/

@[simp] theorem answersOf_length (n : Nat) (ws : List Nat) (k : Nat) : (answersOf n ws k).length = n := by
  induction n generalizing ws k with
  | zero => rfl
  | succ n ih => cases ws <;> simp [answersOf, ih]

/-- Answers listed in the state come first. -/
theorem answersOf_append (ws rest : List Nat) (k : Nat) : answersOf ws.length (ws ++ rest) k = ws := by
  induction ws with
  | nil => rfl
  | cons d ds ih => simp [answersOf, ih]

/-! ### A receive -/

/-- Everything one bit of a receive does (R94). -/
theorem receiveBit_eq (s : State) (i : Fin 8) :
    receiveBit s i =
      { s with
        bitIx := i
        timer := (drawWidth s).1
        shift := s.shift ||| (if (drawWidth s).1 > s.cfg.tThresh then 1#8 <<< i.val else 0)
        widths := (drawWidth s).2.widths
        draws := (drawWidth s).2.draws
        trace := s.trace ++ [.measure s.cfg.tTimeout (drawWidth s).1] } := by
  rcases hw : s.widths with _ | ⟨d, ds⟩ <;> simp only [receiveBit, measure, drawWidth, emit, hw]

/-- The shift register after the bits at positions `is` came in with widths `ws`. -/
def shiftAfter (thresh : Nat) : List (Fin 8) → List Nat → Byte → Byte
  | i :: is, d :: ds, v => shiftAfter thresh is ds (v ||| (if d > thresh then 1#8 <<< i.val else 0))
  | _, _, v => v

theorem getLastD_cons {α : Type} (a b : α) (l : List α) : (a :: l).getLastD b = l.getLastD a := by
  cases l <;> rfl

/-- Everything the bits of a receive do, whatever their positions. -/
theorem receiveBits_eq (is : List (Fin 8)) (s : State) :
    is.foldl receiveBit s =
      { s with
        bitIx := is.getLastD s.bitIx
        timer := (answersOf is.length s.widths s.draws).getLastD s.timer
        shift := shiftAfter s.cfg.tThresh is (answersOf is.length s.widths s.draws) s.shift
        widths := s.widths.drop is.length
        draws := s.draws + (is.length - s.widths.length)
        trace := s.trace ++ (answersOf is.length s.widths s.draws).map (.measure s.cfg.tTimeout ·) } := by
  induction is generalizing s with
  | nil => simp [answersOf, shiftAfter]
  | cons i is ih =>
    rw [List.foldl_cons, ih, receiveBit_eq]
    rcases hw : s.widths with _ | ⟨d, ds⟩
    · have hd : s.draws + 1 + is.length = s.draws + (is.length + 1) := by omega
      simp [drawWidth, hw, answersOf, shiftAfter, hd, getLastD_cons, -List.getLastD_eq_getLast?]
    · simp [drawWidth, hw, answersOf, shiftAfter, getLastD_cons, -List.getLastD_eq_getLast?]

/-- Eight bits set one by one, bit 0 first, make the number they spell. -/
theorem eight_bits (b0 b1 b2 b3 b4 b5 b6 b7 : Bool) :
    (0#8 ||| (bif b0 then 1#8 <<< 0 else 0#8) ||| (bif b1 then 1#8 <<< 1 else 0#8)
      ||| (bif b2 then 1#8 <<< 2 else 0#8) ||| (bif b3 then 1#8 <<< 3 else 0#8)
      ||| (bif b4 then 1#8 <<< 4 else 0#8) ||| (bif b5 then 1#8 <<< 5 else 0#8)
      ||| (bif b6 then 1#8 <<< 6 else 0#8) ||| (bif b7 then 1#8 <<< 7 else 0#8)) =
    BitVec.ofNat 8 ((bif b0 then 1 else 0) + 2 * ((bif b1 then 1 else 0) + 2 * ((bif b2 then 1 else 0)
      + 2 * ((bif b3 then 1 else 0) + 2 * ((bif b4 then 1 else 0) + 2 * ((bif b5 then 1 else 0)
      + 2 * ((bif b6 then 1 else 0) + 2 * ((bif b7 then 1 else 0) + 2 * 0)))))))) := by
  revert b0 b1 b2 b3 b4 b5 b6 b7
  decide

/-- The byte built bit by bit is the number the widths spell. -/
theorem shiftAfter_eq (thresh : Nat) (ws : List Nat) (h : ws.length = 8) :
    shiftAfter thresh bitPositions ws 0 = byteOfWidths thresh ws := by
  match ws, h with
  | [d0, d1, d2, d3, d4, d5, d6, d7], _ =>
    have e := eight_bits (d0 > thresh) (d1 > thresh) (d2 > thresh) (d3 > thresh) (d4 > thresh) (d5 > thresh)
      (d6 > thresh) (d7 > thresh)
    simp only [Bool.cond_decide] at e
    exact e

/-- Everything a receive does (R94): the reply is the byte the next eight answers decode to. -/
theorem receiveReply_eq (s : State) :
    receiveReply s =
      { s with
        dir := .input
        rx := s.reply
        shift := s.reply
        bitIx := 7
        timer := s.answers.getLastD s.cfg.tSettle
        widths := s.widths.drop 8
        draws := s.draws + (8 - s.widths.length)
        trace := s.trace ++ receivedEvents s.cfg s.answers } := by
  have hr : shiftAfter s.cfg.tThresh bitPositions (answersOf 8 s.widths s.draws) 0 = s.reply :=
    shiftAfter_eq _ _ (answersOf_length 8 _ _)
  have hb : bitPositions.getLastD s.bitIx = 7 := rfl
  have hl : bitPositions.length = 8 := rfl
  simp only [receiveReply, receiveByte, receiveBits_eq, setDir, sleep, emit, hl, hr, hb]
  simp [receivedEvents, State.answers]

/-! ### A reply given as a byte -/

theorem widthsOfByte_length (thresh n : Nat) (v : Byte) : (widthsOfByte thresh n v).length = 8 := by
  simp [widthsOfByte]

/-- The widths of a byte lie on the side of the threshold that the byte's bits say (R61). -/
theorem widthsOfByte_get (thresh n : Nat) (v : Byte) (i : Nat) (h : i < 8) :
    (widthsOfByte thresh n v)[i]'(by simpa [widthsOfByte] using h) > thresh ↔ v.getLsbD i = true := by
  have hm : freeWidth (n + i) % (thresh + 1) < thresh + 1 := Nat.mod_lt _ (Nat.succ_pos _)
  simp only [widthsOfByte, List.getElem_map, List.getElem_range]
  split
  · next hv => exact ⟨fun _ => hv, fun _ => by omega⟩
  · next hv => exact ⟨fun hgt => by omega, fun ht => absurd ht hv⟩

/-- A byte is the number its bits spell, bit 0 first. -/
theorem byte_of_bits (v : Byte) :
    BitVec.ofNat 8 ((if v.getLsbD 0 = true then 1 else 0) + 2 * ((if v.getLsbD 1 = true then 1 else 0)
      + 2 * ((if v.getLsbD 2 = true then 1 else 0) + 2 * ((if v.getLsbD 3 = true then 1 else 0)
      + 2 * ((if v.getLsbD 4 = true then 1 else 0) + 2 * ((if v.getLsbD 5 = true then 1 else 0)
      + 2 * ((if v.getLsbD 6 = true then 1 else 0) + 2 * ((if v.getLsbD 7 = true then 1 else 0)
      + 2 * 0)))))))) = v := by
  revert v
  decide

/-- Any eight widths that lie on the side of the threshold that the bits of `v` say decode to `v` (R97). -/
theorem byteOfWidths_of_bits (thresh : Nat) (v : Byte) (ws : List Nat) (hl : ws.length = 8)
    (g : ∀ (i : Nat) (h : i < 8), ws[i] > thresh ↔ v.getLsbD i = true) : byteOfWidths thresh ws = v := by
  match ws, hl, g with
  | [d0, d1, d2, d3, d4, d5, d6, d7], _, g =>
    have g0 : d0 > thresh ↔ v.getLsbD 0 = true := g 0 (by omega)
    have g1 : d1 > thresh ↔ v.getLsbD 1 = true := g 1 (by omega)
    have g2 : d2 > thresh ↔ v.getLsbD 2 = true := g 2 (by omega)
    have g3 : d3 > thresh ↔ v.getLsbD 3 = true := g 3 (by omega)
    have g4 : d4 > thresh ↔ v.getLsbD 4 = true := g 4 (by omega)
    have g5 : d5 > thresh ↔ v.getLsbD 5 = true := g 5 (by omega)
    have g6 : d6 > thresh ↔ v.getLsbD 6 = true := g 6 (by omega)
    have g7 : d7 > thresh ↔ v.getLsbD 7 = true := g 7 (by omega)
    simp only [byteOfWidths, numberOfWidths, g0, g1, g2, g3, g4, g5, g6, g7]
    exact byte_of_bits v

/-- The widths of a byte decode to it (R97). -/
theorem byteOfWidths_widthsOfByte (thresh n : Nat) (v : Byte) :
    byteOfWidths thresh (widthsOfByte thresh n v) = v :=
  byteOfWidths_of_bits thresh v _ (widthsOfByte_length thresh n v) (widthsOfByte_get thresh n v)

/-- After a supplied reply the next eight answers are its widths. -/
theorem answers_supplyReply (v : Byte) (s : State) :
    (supplyReply v s).answers = widthsOfByte s.cfg.tThresh s.draws v := by
  have h := answersOf_append (widthsOfByte s.cfg.tThresh s.draws v) s.widths (s.draws + 8)
  rw [widthsOfByte_length] at h
  exact h

/-- A supplied reply is the reply the next receive gives (R97). -/
@[simp] theorem reply_supplyReply (v : Byte) (s : State) : (supplyReply v s).reply = v := by
  simp only [State.reply, answers_supplyReply, supplyReply_cfg, byteOfWidths_widthsOfByte]

/-- Everything a receive of a supplied reply does (R97). -/
theorem receiveReply_supplyReply (v : Byte) (s : State) :
    receiveReply (supplyReply v s) =
      { s with
        dir := .input
        rx := v
        shift := v
        bitIx := 7
        timer := (widthsOfByte s.cfg.tThresh s.draws v).getLastD s.cfg.tSettle
        draws := s.draws + 8
        trace := s.trace ++ receivedEvents s.cfg (widthsOfByte s.cfg.tThresh s.draws v) } := by
  have hd : (supplyReply v s).widths.drop 8 = s.widths := by
    simp [widthsOfByte_length]
  have hn : (supplyReply v s).draws + (8 - (supplyReply v s).widths.length) = s.draws + 8 := by
    have := widthsOfByte_length s.cfg.tThresh s.draws v
    simp only [supplyReply_draws, supplyReply_widths, List.length_append]
    omega
  rw [receiveReply_eq, hd, hn, answers_supplyReply, reply_supplyReply]
  rfl

end Sys2Proof.Machine
end

