-- ==== Sys2Proof/Laws/Chain.lean ====
section
/-! SUPPORT. The spec lemmas of ModuleState, DiscoveryStateMachine and ChainEngine: everything each shared
operation does, once. -/

namespace Sys2Proof.Machine

/-! ### ModuleState -/

/-- A pop of an empty queue: the sticky byte, and nothing changes (R122). -/
theorem popOutput_nil {sl : Slot} (h : sl.pend = []) : popOutput sl = (sl.cached, sl) := by
  simp only [popOutput, h]

/-- A pop of a queue that holds a byte (R122). -/
theorem popOutput_cons {sl : Slot} {b : Byte} {rest : List Byte} (h : sl.pend = b :: rest) :
    popOutput sl = (b, { sl with pend := rest, cached := b }) := by
  simp only [popOutput, h]

/-- The byte sent is the `cached` byte after the pop (R16 a, R122). -/
theorem popOutput_cached (sl : Slot) : (popOutput sl).2.cached = (popOutput sl).1 := by
  cases h : sl.pend with
  | nil => rw [popOutput_nil h]
  | cons b rest => rw [popOutput_cons h]

/-- A pop changes the queue and the `cached` byte only, and the queue loses its head (R122). -/
theorem popOutput_frame (sl : Slot) :
    (popOutput sl).2 = { sl with pend := sl.pend.tail, cached := (popOutput sl).1 } := by
  cases h : sl.pend with
  | nil => rw [popOutput_nil h]; exact (congrArg (fun q => { sl with pend := q }) h)
  | cons b rest => rw [popOutput_cons h]; simp

/-- Everything `nextOutputByte` does (R122). -/
theorem nextOutput_eq (k : SlotIx) (s : State) :
    nextOutput k s =
      { s with slots := s.slots.set k (popOutput (s.slot k)).2, out := s.out.set k (popOutput (s.slot k)).1 } := rfl

/-! ### DiscoveryStateMachine -/

/-- Everything the discovery step does (R140). -/
theorem dsmStep_eq (k : SlotIx) (sent rx : Byte) (s : State) :
    dsmStep k sent rx s =
      { s with slots := s.slots.set k (discoverySlot s.cfg.recordAll sent rx (s.slot k)) } := rfl

/-- Everything a reply given as a byte does: it is received and dispatched to the active slot (R160 step 4,
R151). -/
theorem replyByte_eq (b : Byte) (s : State) :
    replyByte b s =
      { s with
        slots := s.slots.set s.cursor
          (discoverySlot s.cfg.recordAll (s.slot s.cursor).cached b (s.slot s.cursor))
        dir := .input
        rx := b
        shift := b
        bitIx := 7
        timer := (widthsOfByte s.cfg.tThresh s.draws b).getLastD s.cfg.tSettle
        draws := s.draws + 8
        trace := s.trace ++ receivedEvents s.cfg (widthsOfByte s.cfg.tThresh s.draws b) } := by
  simp only [replyByte, receiveReply_supplyReply]
  rfl

/-! ### ChainEngine -/

/-- Everything a slot's output does: the pop, and the byte on the line (R160 step 2). -/
theorem sendOutput_eq (k : SlotIx) (s : State) :
    sendOutput k s =
      { s with
        slots := s.slots.set k (popOutput (s.slot k)).2
        out := s.out.set k (popOutput (s.slot k)).1
        dir := .output
        lvl := s.cfg.stopLevel
        shift := 0
        bitIx := 7
        timer := s.cfg.stopSlots * s.cfg.tBit
        trace := s.trace ++ sentEvents s.cfg (popOutput (s.slot k)).1 } := by
  simp only [sendOutput, nextOutput_eq, Quad.get_set_same, sendByte_eq]

/-- Everything steps 1 to 3 of a cycle do. -/
theorem sendFrame_eq (s : State) :
    sendFrame s =
      { s with
        slots := poppedOf s.slots
        out := outputsOf s.slots
        cks := checksum (outputsOf s.slots) s.cursor
        dir := .output
        lvl := s.cfg.stopLevel
        shift := 0
        bitIx := 7
        timer := s.cfg.stopSlots * s.cfg.tBit
        trace := s.trace ++ frameEvents s.cfg (cycle s.cfg.recordAll s.slots s.cursor s.reply).frame } := by
  simp only [sendFrame, sendChecksum, sendOutput_eq, sendHeader, sendByte_eq]
  simp [State.slot, Quad.get, Quad.set, poppedOf, outputsOf, frameEvents, cycle]

/-- Everything one whole cycle does (R160). -/
theorem updateCycle_eq (s : State) :
    updateCycle s =
      { s with
        slots := (cycle s.cfg.recordAll s.slots s.cursor s.reply).slots
        cursor := s.cursor + 1
        out := outputsOf s.slots
        cks := checksum (outputsOf s.slots) s.cursor
        rx := s.reply
        dir := .input
        lvl := s.cfg.stopLevel
        shift := s.reply
        bitIx := 7
        timer := s.answers.getLastD s.cfg.tSettle
        widths := s.widths.drop 8
        draws := s.draws + (8 - s.widths.length)
        trace := s.trace ++
          cycleEvents s.cfg (cycle s.cfg.recordAll s.slots s.cursor s.reply).frame s.answers } := by
  simp only [updateCycle, dispatchReply, advanceCursor, dsmStep_eq, receiveReply_eq, sendFrame_eq, State.slot,
    State.reply, State.answers, cycleEvents, List.append_assoc, cycle]

theorem poppedOf_get (q : Quad Slot) (k : SlotIx) : (poppedOf q).get k = (popOutput (q.get k)).2 := by
  match k with
  | 0 | 1 | 2 | 3 => rfl

theorem outputsOf_get (q : Quad Slot) (k : SlotIx) : (outputsOf q).get k = (popOutput (q.get k)).1 := by
  match k with
  | 0 | 1 | 2 | 3 => rfl

/-- What a cycle makes of a slot: its output byte is taken, and the reply reaches the active slot alone
(R148). -/
theorem updateCycle_slot (s : State) (k : SlotIx) :
    (updateCycle s).slot k =
      if k = s.cursor then
        discoverySlot s.cfg.recordAll (popOutput (s.slot k)).1 s.reply (popOutput (s.slot k)).2
      else (popOutput (s.slot k)).2 := by
  rw [updateCycle_eq]
  simp only [cycle, State.slot, Quad.get_set]
  split
  · next h => subst h; rw [outputsOf_get, poppedOf_get]
  · rw [poppedOf_get]

/-- The byte a cycle sends to a slot (R122). -/
theorem updateCycle_out (s : State) (k : SlotIx) : (updateCycle s).out.get k = (popOutput (s.slot k)).1 := by
  rw [updateCycle_eq]
  exact outputsOf_get _ _

/-- The cursor after a cycle (R162). -/
theorem updateCycle_cursor (s : State) : (updateCycle s).cursor = s.cursor + 1 := by rw [updateCycle_eq]

@[simp] theorem updateCycle_cfg (s : State) : (updateCycle s).cfg = s.cfg := by rw [updateCycle_eq]

@[simp] theorem updateCycle_inputs (s : State) : (updateCycle s).inputs = s.inputs := by rw [updateCycle_eq]

@[simp] theorem updateCycle_phase (s : State) : (updateCycle s).phase = s.phase := by rw [updateCycle_eq]

theorem runCycles_nil (s : State) : runCycles [] s = s := rfl

theorem runCycles_cons (r : Byte) (rs : List Byte) (s : State) :
    runCycles (r :: rs) s = runCycles rs (updateCycle (supplyReply r s)) := rfl

/-- A Discovered slot keeps its queue and its `cached` byte in the discovery step (R143, R144). -/
theorem discoverySlot_discovered {sl : Slot} (all : Bool) (sent rx : Byte) (h : sl.conn = .discovered) :
    (discoverySlot all sent rx sl).pend = sl.pend ∧ (discoverySlot all sent rx sl).cached = sl.cached := by
  have hA : (discoveryArm sent rx sl).pend = sl.pend ∧ (discoveryArm sent rx sl).cached = sl.cached := by
    simp only [discoveryArm, h]
    split
    · exact ⟨rfl, rfl⟩
    · split <;> exact ⟨rfl, rfl⟩
  cases all <;> exact hA

/-- A TypeKnown slot records any byte but 0x00 (R147). -/
theorem discoverySlot_known {sl : Slot} (all : Bool) (sent : Byte) {rx : Byte} (h : sl.conn = .typeKnown)
    (hr : rx ≠ 0x00) : discoverySlot all sent rx sl = { sl with lastIn := rx } := by
  have hA : discoveryArm sent rx sl = { sl with lastIn := rx } := by
    unfold discoveryArm
    split
    · next hc => exact absurd (h.symm.trans hc) (by decide)
    · next hc => exact absurd (h.symm.trans hc) (by decide)
    · exact if_neg hr
  cases all <;> simp only [discoverySlot, hA] <;> rfl

/-! ### An undisturbed slot (R123) -/

/-- A reply that neither announces nor disconnects the slot leaves what it sends. -/
theorem discoverySlot_undisturbed {sl : Slot} (all : Bool) (sent : Byte) {rx : Byte} (h : ¬ sl.disturbedBy rx) :
    (discoverySlot all sent rx sl).pend = sl.pend ∧ (discoverySlot all sent rx sl).cached = sl.cached := by
  have hA : (discoveryArm sent rx sl).pend = sl.pend ∧ (discoveryArm sent rx sl).cached = sl.cached := by
    simp only [Slot.disturbedBy, not_or, not_and] at h
    unfold discoveryArm
    split
    · next hc => rw [if_neg (show ¬ rx = codeDiscover from h.1 hc)]; exact ⟨rfl, rfl⟩
    · split
      · exact ⟨rfl, rfl⟩
      · split <;> exact ⟨rfl, rfl⟩
    · next hc => rw [if_neg (show ¬ rx = codeDisconnect from h.2 hc)]; exact ⟨rfl, rfl⟩
  cases all <;> exact hA

theorem activeAfter_zero (s : State) : activeAfter 0 s = s.cursor := by
  simp [activeAfter]

theorem activeAfter_cycle (n : Nat) (r : Byte) (s : State) :
    activeAfter n (updateCycle (supplyReply r s)) = activeAfter (n + 1) s := by
  have h : ∀ c x : Fin 4, c + 1 + x = c + (x + 1) := by decide
  simp only [activeAfter, updateCycle_cursor, supplyReply_cursor, h]
  congr 1
  ext
  simp [Fin.val_add, Fin.ofNat]

/-- The first of several undisturbed cycles, and the rest. -/
theorem undisturbed_cons {k : SlotIx} {r : Byte} {rs : List Byte} {s : State} (h : Undisturbed k (r :: rs) s) :
    (k = s.cursor → ¬ (s.slot k).disturbedBy r) ∧ Undisturbed k rs (updateCycle (supplyReply r s)) :=
  ⟨fun hk => h 0 r rfl ((activeAfter_zero s).trans hk.symm),
    fun n x hn ha => h (n + 1) x hn ((activeAfter_cycle n r s).symm.trans ha)⟩

/-- What an undisturbed cycle makes of a slot's output: the queue loses its head, which is now the `cached`
byte (R122, R123). -/
theorem updateCycle_undisturbed {k : SlotIx} {r : Byte} {s : State}
    (h : k = s.cursor → ¬ (s.slot k).disturbedBy r) :
    ((updateCycle (supplyReply r s)).slot k).pend = (s.slot k).pend.tail ∧
    ((updateCycle (supplyReply r s)).slot k).cached = (popOutput (s.slot k)).1 := by
  rw [updateCycle_slot]
  simp only [slot_supplyReply, reply_supplyReply, supplyReply_cursor, supplyReply_cfg]
  have hp : (popOutput (s.slot k)).2.pend = (s.slot k).pend.tail := by rw [popOutput_frame]
  split
  · next hk =>
    have hd : ¬ (popOutput (s.slot k)).2.disturbedBy r := by
      rw [popOutput_frame]
      exact h hk
    obtain ⟨h1, h2⟩ := discoverySlot_undisturbed s.cfg.recordAll (popOutput (s.slot k)).1 hd
    exact ⟨h1.trans hp, h2.trans (popOutput_cached _)⟩
  · exact ⟨hp, popOutput_cached _⟩

/-! ### The phases -/

/-- The engine's work does not depend on the phase register: what each phase does, and then a change of
phase (R21). -/
theorem sendHeader_enterPhase (p : Phase) (s : State) :
    sendHeader (enterPhase p s) = enterPhase p (sendHeader s) := by
  simp only [sendHeader, sendByte_eq, enterPhase]

theorem sendOutput_enterPhase (k : SlotIx) (p : Phase) (s : State) :
    sendOutput k (enterPhase p s) = enterPhase p (sendOutput k s) := by
  simp only [sendOutput_eq, enterPhase, State.slot]

theorem sendChecksum_enterPhase (p : Phase) (s : State) :
    sendChecksum (enterPhase p s) = enterPhase p (sendChecksum s) := by
  simp only [sendChecksum, sendByte_eq, enterPhase]

theorem receiveReply_enterPhase (p : Phase) (s : State) :
    receiveReply (enterPhase p s) = enterPhase p (receiveReply s) := by
  simp only [receiveReply_eq, enterPhase, State.answers, State.reply]

theorem dispatchReply_enterPhase (p : Phase) (s : State) :
    dispatchReply (enterPhase p s) = enterPhase p (dispatchReply s) := rfl

/-- A tick takes nothing from outside (R164). -/
theorem tick_inputs (s : State) : (tick s).inputs = s.inputs := by
  unfold tick
  split <;> simp [sendHeader, sendOutput_eq, sendChecksum, sendByte_eq, receiveReply_eq, dispatchReply, dsmStep_eq]

/-! ### The register file's invariants -/

theorem initial_ok : Slot.initial.ok := by
  simp [Slot.ok, Slot.initial]

theorem disconnectSlot_eq (sl : Slot) : disconnectSlot sl = Slot.initial := rfl

theorem setPend_ok {sl : Slot} {q : List Byte} (hq : q.length ≤ qCap) (h : sl.ok) : (setPend q sl).ok :=
  ⟨hq, h.2⟩

theorem clearJustConn_ok {sl : Slot} (h : sl.ok) : (clearJustConn sl).ok :=
  ⟨h.1, h.2.1, fun hf => absurd hf (by simp [clearJustConn])⟩

theorem storeInput_ok {sl : Slot} {b : Byte} (h : sl.ok) : (storeInput b sl).ok := h

theorem popOutput_ok {sl : Slot} (h : sl.ok) : (popOutput sl).2.ok := by
  rw [popOutput_frame]
  exact ⟨le_trans (by simp) h.1, h.2⟩

theorem discoveryArm_ok {sl : Slot} {sent rx : Byte} (h : sl.ok) : (discoveryArm sent rx sl).ok := by
  obtain ⟨hq, hm, hj⟩ := h
  unfold discoveryArm
  split
  · next hc =>
    split
    · refine ⟨by simp [setPend, qCap], ?_, fun hf => ?_⟩
      · simpa [setPend, hc] using hm
      · rw [hj hf] at hc; cases hc
    · exact ⟨hq, hm, hj⟩
  · split
    · exact ⟨hq, by simp [becomeKnown, raiseJustConn], fun _ => rfl⟩
    · split
      · exact ⟨hq, by simp [becomeKnown, raiseJustConn], fun _ => rfl⟩
      · exact ⟨hq, hm, hj⟩
  · split
    · exact initial_ok
    · exact ⟨hq, hm, hj⟩

theorem discoverySlot_ok {sl : Slot} {all : Bool} {sent rx : Byte} (h : sl.ok) :
    (discoverySlot all sent rx sl).ok := by
  cases all
  · exact discoveryArm_ok h
  · exact storeInput_ok (discoveryArm_ok h)

/-! ### The line's discipline -/

theorem lineScan_append (d : Dir) (es fs : List Event) :
    lineScan d (es ++ fs) = (lineScan d es).bind fun d' => lineScan d' fs := by
  induction es generalizing d with
  | nil => rfl
  | cons e es ih =>
    cases e with
    | dir d' => exact ih d'
    | drive l t => cases d <;> simp [lineScan, ih]
    | sleep t => cases d <;> simp [lineScan, ih]
    | measure t w => cases d <;> simp [lineScan, ih]

/-- Sending a byte drives the line only while it is an output, and leaves it one (R54, R92). -/
theorem lineScan_sentEvents (d : Dir) (c : Config) (v : Byte) :
    lineScan d (sentEvents c v) = some .output := by
  simp [sentEvents, lineScan, List.range_succ]

/-- A receive measures only while the line is an input, and leaves it one (R54, R101). -/
theorem lineScan_receivedEvents (d : Dir) (c : Config) (ws : List Nat) :
    lineScan d (receivedEvents c ws) = some .input := by
  have h : lineScan .input (ws.map (.measure c.tTimeout ·)) = some .input := by
    induction ws with
    | nil => rfl
    | cons w ws ih => simpa [lineScan] using ih
  simpa [receivedEvents, lineScan] using h

end Sys2Proof.Machine
end

