-- ==== Sys2Proof/Laws/Encoding.lean ====
section
/-! SUPPORT. The fields of the words the encoder builds, read back. -/

namespace Sys2Proof

/-- The fields of a command word (R70). -/
theorem hostWord_fields (op : BitVec 4) (k : Nat) (two : Bool) (b1 b0 : Byte) :
    (hostWord op k two b1 b0).extractLsb' 20 4 = op ∧
    (hostWord op k two b1 b0).extractLsb' 18 2 = BitVec.ofNat 2 k ∧
    (hostWord op k two b1 b0).getLsbD 17 = false ∧
    (hostWord op k two b1 b0).getLsbD 16 = two ∧
    (hostWord op k two b1 b0).extractLsb' 8 8 = b1 ∧
    (hostWord op k two b1 b0).extractLsb' 0 8 = b0 := by
  refine ⟨?_, ?_, ?_, ?_, ?_, ?_⟩
  case refine_3 => simp only [hostWord, BitVec.getLsbD_append]; rfl
  case refine_4 => simp only [hostWord, BitVec.getLsbD_append]; cases two <;> rfl
  all_goals
    apply BitVec.eq_of_getLsbD_eq
    intro j hj
    simp only [hostWord, BitVec.getLsbD_extractLsb', BitVec.getLsbD_append]
    interval_cases j <;> rfl

/-- The bytes of a frame (R62). -/
theorem frameWord_fields (b0 b1 b2 b3 b4 b5 b6 : Byte) :
    (b0 ++ b1 ++ b2 ++ b3 ++ b4 ++ b5 ++ b6).extractLsb' 48 8 = b0 ∧
    (b0 ++ b1 ++ b2 ++ b3 ++ b4 ++ b5 ++ b6).extractLsb' 40 8 = b1 ∧
    (b0 ++ b1 ++ b2 ++ b3 ++ b4 ++ b5 ++ b6).extractLsb' 32 8 = b2 ∧
    (b0 ++ b1 ++ b2 ++ b3 ++ b4 ++ b5 ++ b6).extractLsb' 24 8 = b3 ∧
    (b0 ++ b1 ++ b2 ++ b3 ++ b4 ++ b5 ++ b6).extractLsb' 16 8 = b4 ∧
    (b0 ++ b1 ++ b2 ++ b3 ++ b4 ++ b5 ++ b6).extractLsb' 8 8 = b5 ∧
    (b0 ++ b1 ++ b2 ++ b3 ++ b4 ++ b5 ++ b6).extractLsb' 0 8 = b6 := by
  refine ⟨?_, ?_, ?_, ?_, ?_, ?_, ?_⟩ <;>
  · apply BitVec.eq_of_getLsbD_eq
    intro j hj
    simp only [BitVec.getLsbD_extractLsb', BitVec.getLsbD_append]
    interval_cases j <;> rfl

/-- The fields of the checksum byte (R63). -/
theorem checksumBits_fields (sum : BitVec 4) (k : SlotIx) :
    (checksumBits sum k).extractLsb' 2 2 = 0 ∧ (checksumBits sum k).extractLsb' 4 4 = sum ∧
    ((checksumBits sum k).extractLsb' 0 2).toFin = k := by
  revert sum k
  decide

/-- The bits of a byte turned round twice are the byte. -/
theorem byte_reverse_reverse (v : Byte) : v.reverse.reverse = v := by
  revert v
  decide

/-- The fields of the eleven slots of a sent byte (R60). -/
theorem sentWord_fields (v : Byte) :
    (0#1 ++ v.reverse ++ 3#2).getLsbD 10 = false ∧ (0#1 ++ v.reverse ++ 3#2).extractLsb' 0 2 = 3 ∧
    ((0#1 ++ v.reverse ++ 3#2).extractLsb' 2 8).reverse = v := by
  revert v
  decide

/-- The fields of the first LED byte (R66). -/
theorem ledFirstByte_fields (green red : BitVec 3) :
    (ledFirstByte green red).extractLsb' 6 2 = 0 ∧ (ledFirstByte green red).extractLsb' 3 3 = green ∧
    (ledFirstByte green red).extractLsb' 0 3 = red := by
  revert green red
  decide

/-- The fields of the second LED byte (R66). -/
theorem ledSecondByte_fields (fade blue : BitVec 3) :
    (ledSecondByte fade blue).extractLsb' 6 2 = 1 ∧ (ledSecondByte fade blue).extractLsb' 3 3 = fade ∧
    (ledSecondByte fade blue).extractLsb' 0 3 = blue := by
  revert fade blue
  decide

/-! ### The decoder's one parameter -/

/-- Which instruction a word is does not depend on the parameters: they only decide why an output byte is
none (R67). -/
theorem decode_ok_config {cfg : Config} {c : Code} {i : Instr} (cfg' : Config) (h : decode cfg c = .ok i) :
    decode cfg' c = .ok i := by
  obtain ⟨f, n⟩ := c
  cases f with
  | output m =>
    simp only [decode, decodeOutput] at h ⊢
    (repeat' split at h) <;> simp_all
  | host | sentLine | receivedLine | cycle | headerByte | checksum | reply => exact h

/-- A table word that reads as an instruction decodes to it in its format, whatever the parameters. -/
theorem decodeTableWord_some {n w : Nat} {i : Instr} (h : decodeTableWord n w = some i) :
    ∃ f, formatOfWord n w = some f ∧ ∀ cfg, decode cfg ⟨f, w⟩ = .ok i := by
  unfold decodeTableWord at h
  split at h
  · cases h
  · next f hf =>
    refine ⟨f, hf, fun cfg => ?_⟩
    generalize hd : decode {} ⟨f, w⟩ = d at h
    cases d with
    | error e => cases h
    | ok j => cases h; exact decode_ok_config cfg hd

end Sys2Proof
end

