-- ==== Sys2Proof/Laws/PerInstr.lean ====
section
/-! SUPPORT. The statements made for every instruction, one lemma per constructor of `Instr`. -/

namespace Sys2Proof.Laws.EncodedWidth

/-- The bits of an instruction's word fit the width of its format (the table's `width` column). -/
def Statement (i : Instr) : Prop :=
  ∀ c code, encode c i = some code → code.bits < 2 ^ code.fmt.width

theorem hostCode_lt (op : BitVec 4) (k : Nat) (two : Bool) (b1 b0 : Byte) :
    (hostCode op k two b1 b0).bits < 2 ^ (hostCode op k two b1 b0).fmt.width :=
  (hostWord op k two b1 b0).isLt

theorem pendingCode_lt (k : Nat) (b0 : Byte) (b1 : Option Byte) :
    (pendingCode k b0 b1).bits < 2 ^ (pendingCode k b0 b1).fmt.width := by
  cases b1 <;> exact hostCode_lt _ _ _ _ _

theorem byteCode_lt {f : Format} (b : Byte) (h : f.width = 8) :
    (byteCode f b).bits < 2 ^ (byteCode f b).fmt.width := by
  simpa [byteCode, h] using b.isLt

/-- An instruction with one word. -/
theorem of_some {i : Instr} {f : Config → Code} (he : ∀ c, encode c i = some (f c))
    (hf : ∀ c, (f c).bits < 2 ^ (f c).fmt.width) : Statement i := by
  intro c code h
  rw [he c] at h
  cases h
  exact hf c

/-- An instruction with a word under a condition on its operands. -/
theorem of_ite {i : Instr} {b : Bool} {f : Config → Code}
    (he : ∀ c, encode c i = if b then some (f c) else none)
    (hf : ∀ c, (f c).bits < 2 ^ (f c).fmt.width) : Statement i := by
  intro c code h
  rw [he c] at h
  split at h
  · cases h
    exact hf c
  · cases h

/-- An instruction with no word. -/
theorem of_none {i : Instr} (he : ∀ c, encode c i = none) : Statement i := by
  intro c code h
  rw [he c] at h
  cases h

theorem update : Statement .update := of_some (fun _ => rfl) fun _ => hostCode_lt _ _ _ _ _
theorem setPending (k : Nat) (b0 : Byte) (b1 : Option Byte) : Statement (.setPending k b0 b1) :=
  of_ite (fun _ => rfl) fun _ => pendingCode_lt _ _ _
theorem getConnected (k : Nat) : Statement (.getConnected k) := of_ite (fun _ => rfl) fun _ => hostCode_lt _ _ _ _ _
theorem getJustConnected (k : Nat) : Statement (.getJustConnected k) :=
  of_ite (fun _ => rfl) fun _ => hostCode_lt _ _ _ _ _
theorem getType (k : Nat) : Statement (.getType k) := of_ite (fun _ => rfl) fun _ => hostCode_lt _ _ _ _ _
theorem getInput (k : Nat) : Statement (.getInput k) := of_ite (fun _ => rfl) fun _ => hostCode_lt _ _ _ _ _
theorem reservedOp0 : Statement .reservedOp0 := of_some (fun _ => rfl) fun _ => hostCode_lt _ _ _ _ _
theorem reservedOp7 : Statement .reservedOp7 := of_some (fun _ => rfl) fun _ => hostCode_lt _ _ _ _ _
theorem reservedOp8 : Statement .reservedOp8 := of_some (fun _ => rfl) fun _ => hostCode_lt _ _ _ _ _
theorem reservedOp9 : Statement .reservedOp9 := of_some (fun _ => rfl) fun _ => hostCode_lt _ _ _ _ _
theorem reservedOpA : Statement .reservedOpA := of_some (fun _ => rfl) fun _ => hostCode_lt _ _ _ _ _
theorem reservedOpB : Statement .reservedOpB := of_some (fun _ => rfl) fun _ => hostCode_lt _ _ _ _ _
theorem reservedOpC : Statement .reservedOpC := of_some (fun _ => rfl) fun _ => hostCode_lt _ _ _ _ _
theorem reservedOpD : Statement .reservedOpD := of_some (fun _ => rfl) fun _ => hostCode_lt _ _ _ _ _
theorem reservedOpE : Statement .reservedOpE := of_some (fun _ => rfl) fun _ => hostCode_lt _ _ _ _ _
theorem reservedOpF : Statement .reservedOpF := of_some (fun _ => rfl) fun _ => hostCode_lt _ _ _ _ _
theorem reservedZeroBit : Statement .reservedZeroBit := of_some (fun _ => rfl) fun _ => by decide
theorem servoPos (k deg : Nat) : Statement (.servoPos k deg) := of_ite (fun _ => rfl) fun _ => pendingCode_lt _ _ _
theorem servoLim (k : Nat) : Statement (.servoLim k) := of_ite (fun _ => rfl) fun _ => pendingCode_lt _ _ _
theorem servoColor (k : Nat) (c : BitVec 3) : Statement (.servoColor k c) :=
  of_ite (fun _ => rfl) fun _ => pendingCode_lt _ _ _
theorem ledColor (k : Nat) (red green blue fade : BitVec 3) : Statement (.ledColor k red green blue fade) :=
  of_ite (fun _ => rfl) fun _ => pendingCode_lt _ _ _
theorem sendByte (v : Byte) : Statement (.sendByte v) := of_none fun _ => rfl
theorem receiveByte : Statement .receiveByte := of_none fun _ => rfl
theorem compute (out : Quad Byte) (k : SlotIx) : Statement (.compute out k) := of_none fun _ => rfl
theorem setPendingOutput (k : Nat) (q : List Byte) : Statement (.setPendingOutput k q) := of_none fun _ => rfl
theorem nextOutputByte (k : Nat) : Statement (.nextOutputByte k) := of_none fun _ => rfl
theorem recordInput (k : Nat) (b : Byte) : Statement (.recordInput k b) := of_none fun _ => rfl
theorem dsmStep (k : Nat) (sent rx : Byte) : Statement (.dsmStep k sent rx) := of_none fun _ => rfl
theorem reset : Statement .reset := of_none fun _ => rfl
theorem lineSentByte (v : Byte) : Statement (.lineSentByte v) := of_some (fun _ => rfl) fun _ => BitVec.isLt _
theorem lineReceivedByte (v : Byte) : Statement (.lineReceivedByte v) :=
  of_some (fun _ => rfl) fun _ => BitVec.isLt _
theorem frame (out : Quad Byte) (sum : BitVec 4) (slot : SlotIx) (reply : Byte) : Statement (.frame out sum slot reply) :=
  of_some (fun _ => rfl) fun _ => BitVec.isLt _
theorem checksumByte (sum : BitVec 4) (slot : SlotIx) : Statement (.checksumByte sum slot) :=
  of_some (fun _ => rfl) fun _ => byteCode_lt _ rfl
theorem header : Statement .header := of_some (fun _ => rfl) fun _ => byteCode_lt _ rfl
theorem noModule : Statement .noModule := of_some (fun _ => rfl) fun _ => byteCode_lt _ rfl
theorem discover : Statement .discover := of_some (fun _ => rfl) fun _ => byteCode_lt _ rfl
theorem typeRequest : Statement .typeRequest := of_some (fun _ => rfl) fun _ => byteCode_lt _ rfl
theorem disconnect : Statement .disconnect := of_some (fun _ => rfl) fun _ => byteCode_lt _ rfl
theorem nilByte : Statement .nilByte := of_some (fun _ => rfl) fun _ => byteCode_lt _ rfl
theorem servoLimitMode : Statement .servoLimitMode := of_some (fun _ => rfl) fun _ => byteCode_lt _ rfl
theorem typeServo : Statement .typeServo := of_some (fun _ => rfl) fun _ => byteCode_lt _ rfl
theorem typeLed : Statement .typeLed := of_some (fun _ => rfl) fun _ => byteCode_lt _ rfl
theorem servoPositionByte (p : Byte) : Statement (.servoPositionByte p) :=
  of_some (fun _ => rfl) fun _ => byteCode_lt _ rfl
theorem ledByte1 (green red : BitVec 3) : Statement (.ledByte1 green red) :=
  of_some (fun _ => rfl) fun _ => byteCode_lt _ rfl
theorem ledByte2 (fade blue : BitVec 3) : Statement (.ledByte2 fade blue) :=
  of_some (fun _ => rfl) fun _ => byteCode_lt _ rfl
theorem recordedInput (v : Byte) : Statement (.recordedInput v) := of_some (fun _ => rfl) fun _ => byteCode_lt _ rfl

end Sys2Proof.Laws.EncodedWidth
end

