-- ==== Sys2Proof/Laws/Step.lean ====
section
/-! SUPPORT. The spec lemmas of the host's operations and of the step: when they answer, and everything an
answer can be. -/

namespace Sys2Proof.Machine

/-! ### The operand checks -/

theorem busy_of_idle {s : State} (h : s.phase = .idle) : s.busy = false := by
  simp [State.busy, h]

theorem busy_of_not_idle {s : State} (h : s.phase ≠ .idle) : s.busy = true := by
  simp [State.busy, h]

theorem asHost_idle {s : State} (h : s.phase = .idle) (r : Result) : asHost s r = r := by
  simp [asHost, busy_of_idle h]

theorem asHost_busy {s : State} (h : s.phase ≠ .idle) (r : Result) : asHost s r = .refused .busy := by
  simp [asHost, busy_of_not_idle h]

@[simp] theorem withSlot_val (k : SlotIx) (f : SlotIx → Result) : withSlot k.val f = f k := by
  simp [withSlot]

theorem withSlot_bad {k : Nat} (h : 4 ≤ k) (f : SlotIx → Result) : withSlot k f = .refused .badSlot := by
  simp [withSlot, Nat.not_lt.mpr h]

/-! ### The host's operations -/

/-- Everything a setter does, when it answers (R180). -/
theorem enqueue_next {k : Nat} {q : List Byte} {s t : State} (h : enqueue k q s = .next t) :
    s.phase = .idle ∧ ∃ j : SlotIx, j.val = k ∧ t = onSlot j (setPend q) (respond .silent s) := by
  by_cases hp : s.phase = .idle
  · rw [enqueue, asHost_idle hp, withSlot] at h
    split at h
    · next hk => cases h; exact ⟨hp, ⟨k, hk⟩, rfl, rfl⟩
    · cases h
  · rw [enqueue, asHost_busy hp] at h
    cases h

/-- Everything a query does, when it answers (R71). -/
theorem query_next {k : Nat} {a : Slot → Byte} {f : Slot → Slot} {s t : State} (h : query k a f s = .next t) :
    s.phase = .idle ∧
      ∃ j : SlotIx, j.val = k ∧ t = onSlot j f (respond (.byte (a (s.slot j))) s) := by
  by_cases hp : s.phase = .idle
  · rw [query, asHost_idle hp, withSlot] at h
    split at h
    · next hk => cases h; exact ⟨hp, ⟨k, hk⟩, rfl, rfl⟩
    · cases h
  · rw [query, asHost_busy hp] at h
    cases h

/-- Everything a reserved word does, when it answers (R72 e). -/
theorem ignoreReserved_next {s t : State} (h : ignoreReserved s = .next t) :
    s.phase = .idle ∧ t = respond .reservedCommand s := by
  by_cases hp : s.phase = .idle
  · rw [ignoreReserved, asHost_idle hp] at h
    cases h
    exact ⟨hp, rfl⟩
  · rw [ignoreReserved, asHost_busy hp] at h
    cases h

/-- Everything `UPDATE` does, when it answers (R160). -/
theorem execUpdate_next {s t : State} (h : execUpdate s = .next t) :
    s.phase = .idle ∧ t = respond .silent (updateCycle s) := by
  by_cases hp : s.phase = .idle
  · rw [execUpdate, asHost_idle hp] at h
    exact ⟨hp, (Host.Outcome.next.inj h).symm⟩
  · rw [execUpdate, asHost_busy hp] at h
    cases h

theorem exec_update {s : State} (h : s.phase = .idle) :
    exec .update s = .next (respond .silent (updateCycle s)) := by
  simp only [exec, execUpdate, asHost_idle h]

/-! ### The internal operations, on a slot that exists -/

theorem exec_nextOutputByte (k : SlotIx) (s : State) :
    exec (.nextOutputByte k.val) s = .next (nextOutput k s) := by
  simp only [exec, execNextOutputByte, withSlot_val]

theorem exec_recordInput (k : SlotIx) (b : Byte) (s : State) :
    exec (.recordInput k.val b) s = .next (onSlot k (storeInput b) s) := by
  simp only [exec, execRecordInput, withSlot_val]

theorem exec_dsmStep (k : SlotIx) (sent rx : Byte) (s : State) :
    exec (.dsmStep k.val sent rx) s = .next (dsmStep k sent rx s) := by
  simp only [exec, execDsmStep, withSlot_val]

/-! ### The step -/

/-- A decoded instruction is none of the internal rows: they have no word (R71). -/
theorem decode_not_internal {cfg : Config} {c : Code} {i : Instr} (h : decode cfg c = .ok i) : i.isInternal = false := by
  obtain ⟨f, n⟩ := c
  cases f <;> simp only [decode, decodeHost, decodeSentLine, decodeFrame, decodeOutput, decodeChecksum, decodeReply] at h
  all_goals
    repeat' split at h
    all_goals first | (cases h; rfl) | (cases h)

/-- Everything a step that goes on can be. -/
theorem step_cases {s t : State} (h : step s = .next t) :
    (∃ rest, s.inputs = .rst :: rest ∧ t = resetMachine { s with inputs := rest }) ∨
    (s.inputs.head? ≠ some .rst ∧ (s.phase ≠ .idle ∨ s.inputs = []) ∧ t = tick s) ∨
    (∃ rest, s.inputs = .updateStart :: rest ∧ s.phase = .idle ∧ t = beginCycle { s with inputs := rest }) ∨
    (∃ c rest i, s.inputs = .word c :: rest ∧ s.phase = .idle ∧ decode s.cfg c = .ok i ∧
      exec i { s with inputs := rest } = .next t) ∨
    (∃ c rest e, s.inputs = .word c :: rest ∧ s.phase = .idle ∧ decode s.cfg c = .error e ∧
      absorbWord c e { s with inputs := rest } = .next t) := by
  unfold step at h
  by_cases hp : s.phase = .idle
  · split at h
    · next rest hi => cases h; exact .inl ⟨rest, hi, rfl⟩
    · next c rest hi =>
      rw [if_neg (by simp [busy_of_idle hp])] at h
      split at h
      · next i hd => exact .inr (.inr (.inr (.inl ⟨c, rest, i, hi, hp, hd, h⟩)))
      · next e hd => exact .inr (.inr (.inr (.inr ⟨c, rest, e, hi, hp, hd, h⟩)))
    · next rest hi =>
      rw [if_neg (by simp [busy_of_idle hp])] at h
      cases h
      exact .inr (.inr (.inl ⟨rest, hi, hp, rfl⟩))
    · next hi => cases h; exact .inr (.inl ⟨by simp [hi], .inr hi, rfl⟩)
  · split at h
    · next rest hi => cases h; exact .inl ⟨rest, hi, rfl⟩
    · next c rest hi =>
      rw [if_pos (busy_of_not_idle hp)] at h
      cases h
      exact .inr (.inl ⟨by simp [hi], .inl hp, rfl⟩)
    · next rest hi =>
      rw [if_pos (busy_of_not_idle hp)] at h
      cases h
      exact .inr (.inl ⟨by simp [hi], .inl hp, rfl⟩)
    · next hi => cases h; exact .inr (.inl ⟨by simp [hi], .inl hp, rfl⟩)

/-- Everything a word without a row does, when it goes on (R72 a, c). -/
theorem absorbWord_next {c : Code} {e : DecodeError} {s t : State} (h : absorbWord c e s = .next t) :
    t = sendByte (BitVec.ofNat 8 c.bits) s ∨ t = replyByte (BitVec.ofNat 8 c.bits) s := by
  unfold absorbWord at h
  split at h <;> cases h
  · exact .inl rfl
  · exact .inr rfl

end Sys2Proof.Machine
end

