-- ==== Sys2Proof/Tests/Slice0.lean ====
section
/-! SUPPORT. The model's own tests: the refusals of WellFormed, the words of the spec's encodings, the
vectors T1 to T84 of `spec/95_test_vectors.md`, and a witness for the hypotheses of every statement. -/

namespace Sys2Proof.Tests

open Sys2Proof Sys2Proof.Machine

/-! ### Helpers -/

/-- A slot in the notation of `95_test_vectors.md`. -/
def slotIs (conn : Conn) (mtype : ModuleType) (lastIn : Byte) (pend : List Byte) (cached : Byte) (just : Bool) :
    Slot :=
  { conn := conn, mtype := mtype, lastIn := lastIn, pend := pend, cached := cached, justConn := just }

/-- Reset, with slot `k` as given. -/
def resetWith (k : SlotIx) (sl : Slot) : State := { State.reset with slots := State.reset.slots.set k sl }

/-- What a next state shows; `none` for a stop. -/
def seen {α : Type} (r : Result) (f : State → α) : Option α :=
  match r with
  | .next s => some (f s)
  | .fault _ => none
  | .refused _ => none

/-- Why an operation is refused. -/
def refusal (r : Result) : Option Refusal :=
  match r with
  | .next _ => none
  | .fault _ => none
  | .refused e => some e

/-- The discovery step on slot 0, and the slot after it. -/
def stepped (sl : Slot) (sent rx : Byte) : Option Slot :=
  seen (exec (.dsmStep 0 sent rx) (resetWith 0 sl)) fun s => s.slot 0

def freshSlot : Slot := slotIs .disconnected .none 0x00 [] 0xFE false
def askedSlot : Slot := slotIs .discovered .none 0x00 [] 0xFC false
def servoSlot : Slot := slotIs .typeKnown .servo 0x7F [] 0x80 false
def ledSlot : Slot := slotIs .typeKnown .led 0x55 [] 0x47 true

/-- A state in the middle of a cycle. -/
def midCycle : State := { State.reset with phase := .out1, dir := .output }

/-! ### WellFormed refuses each kind of ill-formed operation (R203, R65, R147) -/

theorem test_wf_slot : (Instr.getType 4).wellFormed = false ∧ (Instr.getType 3).wellFormed = true := by decide
theorem test_wf_setter_slot : (Instr.setPending 4 0x80 none).wellFormed = false := by decide
theorem test_wf_internal_slot : (Instr.dsmStep 4 0xFE 0xFE).wellFormed = false := by decide
theorem test_wf_queue_empty : (Instr.setPendingOutput 0 []).wellFormed = false := by decide
theorem test_wf_queue_three : (Instr.setPendingOutput 0 [1, 2, 3]).wellFormed = false := by decide
theorem test_wf_angle : (Instr.servoPos 0 181).wellFormed = false ∧ (Instr.servoPos 0 180).wellFormed = true := by
  decide
theorem test_wf_servo_byte :
    (Instr.servoPositionByte 0x17).wellFormed = false ∧ (Instr.servoPositionByte 0xE9).wellFormed = false ∧
    (Instr.servoPositionByte 0x18).wellFormed = true ∧ (Instr.servoPositionByte 0xE8).wellFormed = true := by decide
theorem test_wf_recorded : (Instr.recordedInput 0x00).wellFormed = false := by decide

/-! ### Decoding: words written out from the encodings -/

/-- T74, T75, T76. -/
theorem test_decode_update :
    decode {} ⟨.host, 0x100000⟩ = .ok .update ∧ decode {} ⟨.host, 0x10FFFF⟩ = .ok .update ∧
    decode {} ⟨.host, 0x1DFFFF⟩ = .ok .update := by decide
/-- T77 to T80. -/
theorem test_decode_setPending :
    decode {} ⟨.host, 0b0010_00_0_0_00000000_10000000⟩ = .ok (.setPending 0 0x80 none) ∧
    decode {} ⟨.host, 0x2000FC⟩ = .ok (.setPending 0 0xFC none) ∧
    decode {} ⟨.host, 0x20AB80⟩ = .ok (.setPending 0 0x80 none) ∧
    decode {} ⟨.host, 0b0010_01_0_1_01000111_00100100⟩ = .ok (.setPending 1 0x24 (some 0x47)) := by decide
/-- T71, T72, T73, T83. -/
theorem test_decode_queries :
    decode {} ⟨.host, 0x340000⟩ = .ok (.getConnected 1) ∧ decode {} ⟨.host, 0x480000⟩ = .ok (.getJustConnected 2) ∧
    decode {} ⟨.host, 0x5C0000⟩ = .ok (.getType 3) ∧ decode {} ⟨.host, 0x680000⟩ = .ok (.getInput 2) := by decide
/-- T81, T82, T84 and the table's reserved rows. -/
theorem test_decode_reserved :
    decode {} ⟨.host, 0x000000⟩ = .ok .reservedOp0 ∧ decode {} ⟨.host, 0x700000⟩ = .ok .reservedOp7 ∧
    decode {} ⟨.host, 0x800000⟩ = .ok .reservedOp8 ∧ decode {} ⟨.host, 0x900000⟩ = .ok .reservedOp9 ∧
    decode {} ⟨.host, 0xA00000⟩ = .ok .reservedOpA ∧ decode {} ⟨.host, 0xB00000⟩ = .ok .reservedOpB ∧
    decode {} ⟨.host, 0xC00000⟩ = .ok .reservedOpC ∧ decode {} ⟨.host, 0xD00000⟩ = .ok .reservedOpD ∧
    decode {} ⟨.host, 0xE00000⟩ = .ok .reservedOpE ∧ decode {} ⟨.host, 0xF00000⟩ = .ok .reservedOpF ∧
    decode {} ⟨.host, 0x220080⟩ = .ok .reservedZeroBit ∧ decode {} ⟨.host, 0x12FFFF⟩ = .ok .reservedZeroBit := by decide
/-- T60, T62, T63, T64: a pseudo-operation's word is that of its `SET_PENDING`. -/
theorem test_encode_pseudo :
    encode {} (.servoPos 0 90) = some ⟨.host, 0x200080⟩ ∧ encode {} (.servoLim 3) = some ⟨.host, 0x2C00FA⟩ ∧
    encode {} (.servoColor 0 2) = some ⟨.host, 0x2000F2⟩ ∧
    encode {} (.ledColor 1 4 4 7 0) = some ⟨.host, 0x254724⟩ := by decide
/-- Format B: start LOW, bits least significant first, stop HIGH HIGH (T27, T28). -/
theorem test_decode_sent :
    decode {} ⟨.sentLine, 0b0_00000101_11⟩ = .ok (.lineSentByte 0xA0) ∧
    decode {} ⟨.sentLine, 0b0_10000000_11⟩ = .ok (.lineSentByte 0x01) ∧
    decode {} ⟨.sentLine, 0b1_10000000_11⟩ = .error .badFraming ∧
    decode {} ⟨.sentLine, 0b0_10000000_10⟩ = .error .badFraming := by decide
/-- Format P: eight bits, least significant first (T34). -/
theorem test_decode_received : decode {} ⟨.receivedLine, 0b10000000⟩ = .ok (.lineReceivedByte 0x01) := by decide
/-- Format F (T51). -/
theorem test_decode_frame :
    decode {} ⟨.cycle, 0xFF_FE_FE_80_FE_40_00⟩ = .ok (.frame ⟨0xFE, 0xFE, 0x80, 0xFE⟩ 0x4 0 0x00) ∧
    decode {} ⟨.cycle, 0xFE_FE_FE_80_FE_40_00⟩ = .error .badHeader ∧
    decode {} ⟨.cycle, 0xFF_FE_FE_80_FE_44_00⟩ = .error .badChecksumByte := by decide
/-- Format K: `ssss00kk`. -/
theorem test_decode_checksum :
    decode {} ⟨.checksum, 0b1010_00_11⟩ = .ok (.checksumByte 0xA 3) ∧
    decode {} ⟨.checksum, 0b1010_01_11⟩ = .error .badChecksumByte := by decide
/-- R64, R67: the sent codes. -/
theorem test_decode_output_codes :
    decode {} ⟨.headerByte, 0xFF⟩ = .ok .header ∧ decode {} ⟨.headerByte, 0xFE⟩ = .error .badHeader ∧
    decode {} ⟨.output .none, 0xFE⟩ = .ok .noModule ∧ decode {} ⟨.output .led, 0xFC⟩ = .ok .typeRequest ∧
    decode {} ⟨.output .servo, 0xFB⟩ = .ok .nilByte ∧ decode {} ⟨.output .servo, 0xFA⟩ = .ok .servoLimitMode := by decide
/-- R65, R66, R67: the ranges of the types. -/
theorem test_decode_output_ranges :
    decode {} ⟨.output .servo, 0x80⟩ = .ok (.servoPositionByte 0x80) ∧
    decode {} ⟨.output .led, 0b00_100_100⟩ = .ok (.ledByte1 4 4) ∧
    decode {} ⟨.output .led, 0b01_000_111⟩ = .ok (.ledByte2 0 7) ∧
    decode {} ⟨.output .servo, 0x17⟩ = .error .outputWithoutMeaning ∧
    decode {} ⟨.output .led, 0x80⟩ = .error .outputWithoutMeaning ∧
    decode {} ⟨.output .none, 0x80⟩ = .error .outputWithoutMeaning := by decide
/-- R67, R183: the bytes 0xF0 to 0xF7 are servo colours with the default base, 0xF8 is not, a Led slot has no
such byte, and another base moves them. -/
theorem test_decode_servo_color :
    decode {} ⟨.output .servo, 0xF0⟩ = .error (.servoColorWithoutRow 0) ∧
    decode {} ⟨.output .servo, 0xF7⟩ = .error (.servoColorWithoutRow 7) ∧
    decode {} ⟨.output .servo, 0xF8⟩ = .error .outputWithoutMeaning ∧
    decode {} ⟨.output .led, 0xF2⟩ = .error .outputWithoutMeaning ∧
    decode { servoColorBase := 0x10 } ⟨.output .servo, 0x12⟩ = .error (.servoColorWithoutRow 2) := by decide
/-- R68: the received codes. -/
theorem test_decode_reply :
    decode {} ⟨.reply .disconnected 0xFE, 0xFE⟩ = .ok .discover ∧
    decode {} ⟨.reply .discovered 0xFC, 0x01⟩ = .ok .typeServo ∧
    decode {} ⟨.reply .discovered 0xFC, 0x02⟩ = .ok .typeLed ∧
    decode {} ⟨.reply .typeKnown 0x80, 0x00⟩ = .ok .disconnect ∧
    decode {} ⟨.reply .typeKnown 0x80, 0xFE⟩ = .ok (.recordedInput 0xFE) ∧
    decode {} ⟨.reply .discovered 0x80, 0x01⟩ = .error .replyWithoutMatch ∧
    decode {} ⟨.reply .disconnected 0xFE, 0x01⟩ = .error .replyWithoutMatch := by decide
/-- The table's bytes read with no context (log 6). -/
theorem test_decode_table_bytes :
    decodeTableWord 8 0xFF = some .header ∧ decodeTableWord 8 0xFE = some .discover ∧
    decodeTableWord 8 0xFC = some .typeRequest ∧ decodeTableWord 8 0xFB = some .nilByte ∧
    decodeTableWord 8 0xFA = some .servoLimitMode ∧ decodeTableWord 8 0x00 = some .disconnect ∧
    decodeTableWord 8 0x01 = some .typeServo ∧ decodeTableWord 8 0x02 = some .typeLed ∧
    decodeTableWord 8 0x40 = some (.ledByte2 0 0) ∧ decodeTableWord 8 0xA1 = some (.checksumByte 0xA 1) := by decide
theorem test_decode_table_other_size : decodeTableWord 32 0 = none := by decide
/-- The host's question: the very next step runs the placed word, from reset. -/
theorem test_fetch_from_reset :
    goesOn (step (State.reset.withFetchWord 24 0x100000)) = true ∧
    seen (step (State.reset.withFetchWord 24 0x254724)) (fun s => (s.slot 1).pend) = some [0x24, 0x47] := by decide

/-! ### ChecksumCodec (T1 to T23) -/

theorem test_compute_first_frame :
    seen (exec (.compute ⟨0xFE, 0xFE, 0xFE, 0xFE⟩ 0) State.reset) (fun s => s.cks) = some 0xA0 := by decide
theorem test_compute_vectors :
    checksum ⟨0xFF, 0xFF, 0xFF, 0xFF⟩ 3 = 0xE3 ∧ checksum ⟨0xFC, 0xFE, 0xFE, 0xFE⟩ 1 = 0x81 ∧
    checksum ⟨0x18, 0xE8, 0x24, 0x47⟩ 2 = 0x22 ∧ checksum ⟨0x47, 0x24, 0xE8, 0x18⟩ 2 = 0x22 ∧
    checksum ⟨0xFF, 0x01, 0x00, 0x00⟩ 0 = 0x10 ∧ checksum ⟨0xFF, 0xFF, 0x00, 0x00⟩ 1 = 0xE1 ∧
    checksum ⟨0xF0, 0x0F, 0x00, 0x00⟩ 0 = 0xE0 ∧ checksum ⟨0x00, 0x00, 0x00, 0x00⟩ 3 = 0x03 := by decide

/-! ### BitLevelTransport (T24 to T39) -/

/-- T27: the eleven events of 0xA0. -/
theorem test_sendByte_trace :
    seen (exec (.sendByte 0xA0) State.reset) (fun s => s.trace) =
      some [.dir .output, .drive .low 417, .drive .low 417, .drive .low 417, .drive .low 417, .drive .low 417,
        .drive .low 417, .drive .high 417, .drive .low 417, .drive .high 417, .drive .high 834] := by decide
theorem test_sendByte_line :
    seen (exec (.sendByte 0x00) State.reset) (fun s => (s.dir, s.lvl)) = some (.output, .high) := by decide
/-- T28: bit 0 comes first. -/
theorem test_lineSentByte :
    seen (exec (.lineSentByte 0x01) State.reset) (fun s => s.trace.take 4) =
      some [.dir .output, .drive .low 417, .drive .high 417, .drive .low 417] := by decide
/-- T38: the threshold, and widths above the timeout. -/
theorem test_receiveByte_T38 :
    seen (exec .receiveByte { State.reset with widths := [399, 401, 1, 2500, 3000, 0, 400, 100000] })
      (fun s => (s.rx, s.dir)) = some (0x9A, .input) := by decide
/-- T30. -/
theorem test_receiveByte_T30 :
    seen (exec .receiveByte { State.reset with widths := [0, 600, 600, 600, 600, 600, 600, 600] })
      (fun s => (s.rx, s.trace.length)) = some (0xFE, 10) := by decide

/-! ### ModuleState (T31 to T33, T53 to T57) -/

/-- T32. -/
theorem test_nextOutputByte_pop :
    seen (exec (.nextOutputByte 0) (resetWith 0 (slotIs .typeKnown .led 0 [0x24, 0x47] 0xFE false)))
      (fun s => (s.out.q0, (s.slot 0).pend, (s.slot 0).cached)) = some (0x24, [0x47], 0x24) := by decide
/-- T31. -/
theorem test_nextOutputByte_sticky :
    seen (exec (.nextOutputByte 3) (resetWith 3 servoSlot)) (fun s => (s.out.q3, s.slot 3)) =
      some (0x80, servoSlot) := by decide
/-- T33: a replacement in the middle of a pair. -/
theorem test_setPendingOutput :
    seen (exec (.setPendingOutput 0 [0x09, 0x52]) (resetWith 0 (slotIs .typeKnown .led 0 [0x47] 0x24 false)))
      (fun s => s.slot 0) = some (slotIs .typeKnown .led 0 [0x09, 0x52] 0x24 false) := by decide
/-- T55, T56. -/
theorem test_setPendingOutput_refused :
    refusal (exec (.setPendingOutput 0 []) State.reset) = some .badQueueLength ∧
    refusal (exec (.setPendingOutput 0 [1, 2, 3]) State.reset) = some .badQueueLength := by decide
/-- T57. -/
theorem test_recordInput :
    seen (exec (.recordInput 0 0x7F) State.reset) (fun s => (s.slot 0).lastIn) = some 0x7F := by decide

/-! ### DiscoveryStateMachine (T40 to T49, T58, T59, T66, T67) -/

theorem test_dsmStep_transitions :
    stepped freshSlot 0xFE 0xFE = some (slotIs .discovered .none 0x00 [0xFC] 0xFE false) ∧
    stepped freshSlot 0xFE 0x01 = some freshSlot ∧
    stepped askedSlot 0xFC 0x01 = some (slotIs .typeKnown .servo 0x00 [] 0xFC true) ∧
    stepped askedSlot 0xFC 0x02 = some (slotIs .typeKnown .led 0x00 [] 0xFC true) ∧
    stepped askedSlot 0xFC 0x03 = some askedSlot ∧ stepped askedSlot 0xFC 0x00 = some askedSlot ∧
    stepped askedSlot 0x80 0x01 = some askedSlot ∧
    stepped (slotIs .typeKnown .servo 0x7F [0x90] 0x80 true) 0x80 0x00 = some freshSlot ∧
    stepped servoSlot 0x80 0xFE = some (slotIs .typeKnown .servo 0xFE [] 0x80 false) := by decide
/-- The vectors with `RECORD_INPUT_ALL_STATES` (T41, T43). -/
theorem test_dsmStep_recordAll :
    (discoverySlot true 0xFE 0x33 freshSlot).lastIn = 0x33 ∧
    discoverySlot true 0xFC 0x01 askedSlot = slotIs .typeKnown .servo 0x01 [] 0xFC true := by decide

/-! ### Received codes, on slot 0 of a machine whose cursor is 0 (R68, R141 to R147)

The widths of a reply given as a byte are free values, so these cite `replyByte_eq`, which says that only
the byte matters (R97). -/

/-- T40. -/
theorem test_discover :
    seen (exec .discover State.reset) (fun s => s.slot 0) =
      some (slotIs .discovered .none 0x00 [0xFC] 0xFE false) := by
  simp only [exec, execDiscover, seen, replyByte_eq]
  decide
/-- T43. -/
theorem test_typeServo :
    seen (exec .typeServo (resetWith 0 askedSlot)) (fun s => s.slot 0) =
      some (slotIs .typeKnown .servo 0x00 [] 0xFC true) := by
  simp only [exec, execTypeServo, seen, replyByte_eq]
  decide
/-- T44. -/
theorem test_typeLed :
    seen (exec .typeLed (resetWith 0 askedSlot)) (fun s => s.slot 0) =
      some (slotIs .typeKnown .led 0x00 [] 0xFC true) := by
  simp only [exec, execTypeLed, seen, replyByte_eq]
  decide
/-- T47. -/
theorem test_disconnect :
    seen (exec .disconnect (resetWith 0 ledSlot)) (fun s => s.slot 0) = some freshSlot := by
  simp only [exec, execDisconnect, seen, replyByte_eq]
  decide
/-- T48. -/
theorem test_recordedInput :
    seen (exec (.recordedInput 0x33) (resetWith 0 ledSlot)) (fun s => s.slot 0) =
      some (slotIs .typeKnown .led 0x33 [] 0x47 true) := by
  simp only [exec, execRecordedInput, seen, replyByte_eq]
  decide
/-- R61: the byte is received; the register file is the discovery step's to change. -/
theorem test_lineReceivedByte :
    seen (exec (.lineReceivedByte 0x9A) (resetWith 0 ledSlot)) (fun s => (s.rx, s.slot 0)) = some (0x9A, ledSlot) := by
  simp only [exec, execLineReceivedByte, seen, receiveReply_supplyReply]
  decide

/-! ### Sent codes (R64 to R66): the byte read back from the line's eight data bits -/

/-- The byte that eight driven levels spell, bit 0 first. -/
def byteOnLine (es : List Event) : Byte :=
  byteOfWidths 0 ((es.drop 2).take 8 |>.map fun e => if e = .drive .high 417 then 1 else 0)

/-- The byte an operation puts on the line, from reset. -/
def sentFrom (i : Instr) : Option Byte := seen (exec i State.reset) fun s => byteOnLine s.trace

theorem test_sent_codes :
    sentFrom .header = some 0xFF ∧ sentFrom .noModule = some 0xFE ∧ sentFrom .typeRequest = some 0xFC ∧
    sentFrom .nilByte = some 0xFB ∧ sentFrom .servoLimitMode = some 0xFA := by decide
theorem test_sent_fields :
    sentFrom (.servoPositionByte 0x4C) = some 0x4C ∧ sentFrom (.ledByte1 1 2) = some 0b00001010 ∧
    sentFrom (.ledByte2 1 2) = some 0b01001010 ∧ sentFrom (.checksumByte 0xA 3) = some 0xA3 := by decide

/-! ### ChainEngine (T50 to T52, T68, T69) -/

/-- A silent line. -/
def silent : List Nat := [0, 0, 0, 0, 0, 0, 0, 0]

/-- T50: the first cycle after reset, with no reply. -/
theorem test_update_T50 :
    seen (exec .update { State.reset with widths := silent })
      (fun s => (s.slots, s.cursor, s.out, s.cks, s.rx)) =
      some (State.reset.slots, 1, ⟨0xFE, 0xFE, 0xFE, 0xFE⟩, 0xA0, 0x00) := by
  rw [exec_update (by decide), updateCycle_eq]
  decide
/-- T51: what the host queued goes out in the next cycle. -/
theorem test_update_T51 :
    seen (exec .update { resetWith 2 { freshSlot with pend := [0x80] } with widths := silent })
      (fun s => (s.slot 2, s.cursor, s.out, s.cks)) =
      some (slotIs .disconnected .none 0x00 [] 0x80 false, 1, ⟨0xFE, 0xFE, 0x80, 0xFE⟩, 0x40) := by
  rw [exec_update (by decide), updateCycle_eq]
  decide
/-- T68: the wrap of the cursor, and a module that announces itself in slot 3. -/
theorem test_cycle_T68 :
    cycle false State.reset.slots 3 0xFE =
      { slots := State.reset.slots.set 3 (slotIs .discovered .none 0x00 [0xFC] 0xFE false)
        cursor := 0
        frame := [0xFF, 0xFE, 0xFE, 0xFE, 0xFE, 0xA3] } := by decide
/-- P2, cycle 13: the frame still carries the old byte, and silence disconnects. -/
theorem test_cycle_P2 :
    cycle false (State.reset.slots.set 0 servoSlot) 0 0x00 =
      { slots := State.reset.slots, cursor := 1, frame := [0xFF, 0x80, 0xFE, 0xFE, 0xFE, 0x40] } := by decide
/-- R62: the bytes of a frame on the line; the register file and the cursor stay. -/
theorem test_frame :
    seen (exec (.frame ⟨0xFE, 0xFE, 0xFE, 0xFE⟩ 0xA 0 0xFE) State.reset)
      (fun s => (s.slots, s.cursor, s.cks, s.rx)) = some (State.reset.slots, 0, 0xA0, 0xFE) := by
  simp only [exec, execFrame, seen, receiveReply_supplyReply]
  decide
/-- R230: reset in the middle of a cycle. -/
theorem test_reset : seen (exec .reset midCycle) id = some State.reset := by decide

/-! ### Setters, queries and reserved words (T60 to T73, T81) -/

/-- T60. -/
theorem test_servoPos :
    ([0, 1, 45, 89, 90, 91, 135, 179, 180].map servoPosByte) =
      [0x18, 0x19, 0x4C, 0x7E, 0x80, 0x81, 0xB4, 0xE6, 0xE8] ∧
    seen (exec (.servoPos 0 90) State.reset) (fun s => (s.slot 0).pend) = some [0x80] := by decide
/-- T61. -/
theorem test_servoPos_refused : refusal (exec (.servoPos 0 181) State.reset) = some .angleOutOfRange := by decide
/-- T62. -/
theorem test_servoLim : seen (exec (.servoLim 3) State.reset) (fun s => (s.slot 3).pend) = some [0xFA] := by decide
/-- T63. -/
theorem test_servoColor :
    seen (exec (.servoColor 0 2) State.reset) (fun s => (s.slot 0).pend) = some [0xF2] := by decide
/-- T64, T65, T70. -/
theorem test_ledColor :
    seen (exec (.ledColor 1 4 4 7 0) State.reset) (fun s => (s.slot 1).pend) = some [0x24, 0x47] ∧
    seen (exec (.ledColor 2 0 0 0 0) State.reset) (fun s => (s.slot 2).pend) = some [0x00, 0x40] ∧
    seen (exec (.ledColor 1 7 7 7 7) State.reset) (fun s => (s.slot 1).pend) = some [0x3F, 0x7F] := by decide
/-- T54: the second setter before an update wins. -/
theorem test_setPending :
    seen (exec (.setPending 0 0x90 none) (resetWith 0 { freshSlot with pend := [0x80] })) (fun s => s.slot 0) =
      some { freshSlot with pend := [0x90] } := by decide
theorem test_setPending_badSlot : refusal (exec (.setPending 4 0x90 none) State.reset) = some .badSlot := by decide
/-- T71, T72, T73. -/
theorem test_getConnected :
    seen (exec (.getConnected 2) (resetWith 2 ledSlot)) (fun s => s.rsp) = some (.byte 0x01) ∧
    seen (exec (.getConnected 1) (resetWith 1 askedSlot)) (fun s => s.rsp) = some (.byte 0x00) := by decide
theorem test_getType :
    seen (exec (.getType 2) (resetWith 2 ledSlot)) (fun s => s.rsp) = some (.byte 0x02) ∧
    seen (exec (.getType 1) (resetWith 1 askedSlot)) (fun s => s.rsp) = some (.byte 0x00) := by decide
theorem test_getInput :
    seen (exec (.getInput 2) (resetWith 2 ledSlot)) (fun s => s.rsp) = some (.byte 0x55) := by decide
/-- T72: the read clears the flag. -/
theorem test_getJustConnected :
    seen (exec (.getJustConnected 2) (resetWith 2 ledSlot)) (fun s => (s.rsp, (s.slot 2).justConn)) =
      some (.byte 0x01, false) := by decide
/-- T81, T82: the register file and the line stay. -/
theorem test_reserved :
    seen (exec .reservedZeroBit State.reset) id = some { State.reset with rsp := .reservedCommand } ∧
    seen (exec .reservedOpF State.reset) id = some { State.reset with rsp := .reservedCommand } := by decide
theorem test_host_busy : refusal (exec (.getType 0) midCycle) = some .busy := by decide

/-! ### The step -/

/-- R230: reset overrides a cycle in progress. -/
theorem test_step_reset : seen (step { midCycle with inputs := [.rst] }) id = some State.reset := by decide
/-- R21: a command accepted at the pins starts the first phase, and the header goes out in it. -/
theorem test_step_phases :
    seen (step { State.reset with inputs := [.updateStart] }) (fun s => s.phase) = some .hdr ∧
    seen (step { State.reset with phase := .hdr }) (fun s => (s.phase, s.dir, byteOnLine s.trace)) =
      some (.out0, .output, 0xFF) := by decide
/-- R72 (a), (c). -/
theorem test_step_absorbs :
    seen (step { State.reset with inputs := [.word ⟨.output .none, 0x80⟩] }) (fun s => byteOnLine s.trace) =
      some 0x80 := by decide
/-- A framing the block never sends has no meaning. -/
theorem test_step_notARow :
    refusal (step { State.reset with inputs := [.word ⟨.headerByte, 0xFE⟩] }) = some (.notARow .badHeader) := by decide

/-! ### A pulse on a waveform (R98) -/

/-- A HIGH already present is waited out, the next pulse is three microseconds long. -/
theorem test_measureWave :
    measureWave 10 .waitLow 0 [.high, .low, .low, .high, .high, .high, .low, .high] =
      some (3, [.low, .high]) := by decide
theorem test_measureWave_timeout :
    measureWave 2 .waitLow 0 [.high, .high, .high, .high, .low] = some (0, [.high, .low]) := by decide

/-! ### Witnesses: concrete states and operands that meet the hypotheses of each statement -/

theorem witness_DecodeOfEncode :
    (Instr.setPending 3 0x24 (some 0x47)).wellFormed = true ∧
    encode {} (.setPending 3 0x24 (some 0x47)) = some ⟨.host, 0x2D4724⟩ ∧
    (Instr.servoPositionByte 0xE8).wellFormed = true ∧
    encode {} (.servoPositionByte 0xE8) = some ⟨.output .servo, 0xE8⟩ := by decide
theorem witness_ExactlyInternalRows :
    (Instr.nextOutputByte 3).wellFormed = true ∧ encode {} (.nextOutputByte 3) = none ∧
    (Instr.recordedInput 0xFF).wellFormed = true ∧ (encode {} (.recordedInput 0xFF)).isSome = true := by decide
/-- Each clause of the opcode map at its lowest and its highest word. -/
theorem witness_HostOpcodeMap :
    ∀ op < 16, op * 2 ^ 20 < 2 ^ 24 ∧ op * 2 ^ 20 / 2 ^ 17 % 2 = 0 ∧ op * 2 ^ 20 / 2 ^ 20 = op ∧
      op * 2 ^ 20 / 2 ^ 16 % 2 = 0 ∧
      op * 2 ^ 20 + 0xDFFFF < 2 ^ 24 ∧ (op * 2 ^ 20 + 0xDFFFF) / 2 ^ 17 % 2 = 0 ∧
      (op * 2 ^ 20 + 0xDFFFF) / 2 ^ 20 = op ∧ (op * 2 ^ 20 + 0xDFFFF) / 2 ^ 16 % 2 = 1 := by decide

def oneWord : State := { State.reset with inputs := [.word ⟨.host, 0x100000⟩] }

theorem witness_StepRunsTheDecodedInstruction :
    oneWord.phase = .idle ∧ oneWord.inputs = .word ⟨.host, 0x100000⟩ :: [] ∧
    decode {} ⟨.host, 0x100000⟩ = .ok .update := by decide
theorem witness_PlacedTableWordRunsNext : decodeTableWord 24 0x100000 = some .update := by decide
theorem witness_NothingHappensWithoutTheHost : State.reset.phase = .idle ∧ State.reset.inputs = [] := by decide
theorem witness_NoCommandIsAcceptedWhileBusy :
    midCycle.phase ≠ .idle ∧ midCycle.inputs.head? ≠ some .rst := by decide
theorem witness_HostInputsNeverStopTheMachine :
    HostOnly { State.reset with inputs := [.word ⟨.host, 0x220080⟩, .updateStart, .rst] } := by
  unfold HostOnly
  decide
theorem witness_UnmatchedLineBytes :
    decode {} ⟨.output .none, (0x80 : Byte).toNat⟩ = .error .outputWithoutMeaning ∧
    decode {} ⟨.reply .discovered 0x80, (0x01 : Byte).toNat⟩ = .error .replyWithoutMatch ∧
    decode {} ⟨.output .servo, (0xF2 : Byte).toNat⟩ = .error (.servoColorWithoutRow 2) ∧
    decode {} ⟨.checksum, 0xA4⟩ = .error .badChecksumByte ∧ decode {} ⟨.headerByte, 0xFE⟩ = .error .badHeader := by
  decide
theorem witness_idle : State.reset.phase = .idle ∧ (resetWith 3 ledSlot).phase = .idle := by decide
/-- The boundary angles of the servo statement, and the first one refused. -/
theorem witness_ServoPos : State.reset.phase = .idle ∧ 0 ≤ 180 ∧ 180 ≤ 180 ∧ ¬ 181 ≤ 180 := by decide
theorem witness_ServoColor : State.reset.cfg.servoColorBase = 0xF0 := by decide
theorem witness_Refusals :
    (Instr.getType 0).isHost = true ∧ midCycle.phase ≠ .idle ∧ 180 < 181 ∧ ([] : List Byte).length = 0 ∧
    2 < ([1, 2, 3] : List Byte).length ∧ 4 ≤ 4 ∧ State.reset.phase = .idle := by decide
theorem witness_HostOperationsLeaveTheEngineAlone :
    (Instr.setPending 3 0x80 none).isHost = true ∧ Instr.setPending 3 0x80 none ≠ .update ∧
    goesOn (exec (.setPending 3 0x80 none) State.reset) = true := by decide
theorem witness_SetPendingOutput : ([0x80] : List Byte).length = 1 ∧ ([0x24, 0x47] : List Byte).length = 2 := by decide
/-- The three shapes of a queue. -/
theorem witness_NextOutputByte :
    ((resetWith 0 { ledSlot with pend := [0x24, 0x47] }).slot 0).pend = [0x24, 0x47] ∧
    ((resetWith 3 ledSlot).slot 3).pend = [] ∧ goesOn (exec (.nextOutputByte 3) State.reset) = true := by decide
theorem witness_Discover :
    State.reset.cfg.recordAll = false ∧ (State.reset.slot 3).conn = .disconnected := by decide
theorem witness_DisconnectedIgnores :
    (State.reset.slot 0).conn = .disconnected ∧ (0x00 : Byte) ≠ 0xFE ∧ (0xFF : Byte) ≠ 0xFE ∧
    State.reset.cfg.recordAll = false ∧
    ({ State.reset with cfg := { recordAll := true } } : State).cfg.recordAll = true := by decide
theorem witness_ReceivedCodes :
    ((Instr.discover = .discover ∧ (0xFE : Byte) = 0xFE) ∧ (Instr.disconnect = .disconnect ∧ (0x00 : Byte) = 0x00)) ∧
    Instr.recordedInput 0xFF = .recordedInput 0xFF := by decide
theorem witness_SendingOperations :
    (0xA3 : Byte).toNat = (0xA : BitVec 4).toNat * 16 + (3 : SlotIx).val ∧
    (0x3F : Byte).toNat = (7 : BitVec 3).toNat * 8 + (7 : BitVec 3).toNat ∧
    (0x7F : Byte).toNat = 0x40 + (7 : BitVec 3).toNat * 8 + (7 : BitVec 3).toNat := by decide
theorem witness_TraceDeterminesTheSentByte :
    State.reset.cfg.oneLevel ≠ State.reset.cfg.zeroLevel ∧ goesOn (exec (.sendByte 0xFF) State.reset) = true := by decide
theorem witness_MeasuredPulse :
    measureWave 4 .waitLow 0 [.low, .high, .high, .low] = some (2, [.low]) := by decide
theorem witness_TenBitAccumulator : 10 ≤ 10 ∧ 10 ≤ 16 := by decide
/-- T14 and T15: a permutation has the same sum. -/
theorem witness_ChecksumSum :
    (0x18 : Byte).toNat + (0xE8 : Byte).toNat + (0x24 : Byte).toNat + (0x47 : Byte).toNat
      = (0x47 : Byte).toNat + (0x24 : Byte).toNat + (0xE8 : Byte).toNat + (0x18 : Byte).toNat := by decide
theorem witness_PhasesMakeTheAtomicCycle :
    State.reset.phase = .idle ∧ ([] : List Input).head? ≠ some .rst ∧
    ([.updateStart] : List Input).head? ≠ some .rst := by decide
theorem witness_PassiveSlots : State.reset.phase = .idle ∧ (3 : SlotIx) ≠ State.reset.cursor := by decide

/-- Two machines that differ in slot 1 only. -/
def otherSlot : State := { resetWith 1 ledSlot with widths := silent }

theorem witness_SlotsDoNotInfluenceEachOther :
    ∃ s' t t', otherSlot.cfg = s'.cfg ∧ otherSlot.cursor = s'.cursor ∧ otherSlot.reply = s'.reply ∧
      otherSlot.slot 0 = s'.slot 0 ∧ otherSlot.slot 1 ≠ s'.slot 1 ∧ exec .update otherSlot = .next t ∧
      exec .update s' = .next t' :=
  ⟨{ State.reset with widths := silent }, _, _, by decide, by decide, by decide, by decide, by decide,
    exec_update (by decide), exec_update (by decide)⟩
/-- The boundary of the threshold: two widths above it, and two not above it. -/
theorem witness_OnlyTheReplyByteMatters :
    ∀ i < 8, ([401, 0, 401, 400, 600, 399, 2500, 1].getD i 0 > State.reset.cfg.tThresh ↔
      [402, 400, 100000, 0, 401, 400, 401, 0].getD i 0 > State.reset.cfg.tThresh) := by decide
theorem witness_SilentLine :
    let s : State := { resetWith 0 ledSlot with widths := [400, 400, 400, 400, 400, 400, 400, 0] }
    s.phase = .idle ∧ (∀ d ∈ s.answers, d ≤ s.cfg.tThresh) ∧ (s.slot s.cursor).conn = .typeKnown := by decide
/-- S3, P2 cycles 6 to 9: three empty slots are silent, and slot 0 reports 0x7F in its own cycle. -/
theorem witness_OutputIsSticky :
    let s : State := { resetWith 0 servoSlot with cursor := 1 }
    (s.slot 0).conn = .typeKnown ∧ (s.slot 0).pend = [] ∧ ([0x00, 0x00, 0x00, 0x7F] : List Byte) ≠ [] ∧
    (∀ n r, ([0x00, 0x00, 0x00, 0x7F] : List Byte)[n]? = some r → activeAfter n s = 0 → r ≠ 0x00) ∧
    Undisturbed 0 [0x00, 0x00, 0x00, 0x7F] s := by
  have h : ∀ n r, ([0x00, 0x00, 0x00, 0x7F] : List Byte)[n]? = some r →
      activeAfter n { resetWith 0 servoSlot with cursor := 1 } = 0 → r = 0x7F := by
    intro n r hn ha
    match n with
    | 0 | 1 | 2 => exact absurd ha (by decide)
    | 3 => exact (Option.some.inj hn).symm
    | n + 4 => cases hn
  refine ⟨by decide, by decide, by decide, fun n r hn ha => by rw [h n r hn ha]; decide, fun n r hn ha hd => ?_⟩
  rw [h n r hn ha] at hd
  rcases hd with ⟨-, hr⟩ | ⟨-, hr⟩ <;> exact absurd hr (by decide)
/-- Slots in the other two connection states, in a cycle of their own. -/
theorem witness_OutputIsSticky_unknown :
    (State.reset.slot 0).pend = [] ∧ Undisturbed 0 [0x00] State.reset ∧
    ((resetWith 0 askedSlot).slot 0).pend = [] ∧ Undisturbed 0 [0x01] (resetWith 0 askedSlot) := by
  refine ⟨by decide, fun n r hn ha hd => ?_, by decide, fun n r hn ha hd => ?_⟩ <;>
  · obtain _ | n := n
    · cases Option.some.inj hn
      exact absurd hd (by simp only [Slot.disturbedBy]; decide)
    · cases hn
/-- S6, P3 cycles 7 and 8: slot 1 is not active in either, and slots 2 and 3 are silent. -/
theorem witness_TwoByteOutput :
    let s : State := { resetWith 1 { ledSlot with pend := [0x24, 0x47] } with cursor := 2 }
    (s.slot 1).pend = [0x24, 0x47] ∧ Undisturbed 1 [0x00] s ∧ Undisturbed 1 [0x00, 0x00] s := by
  refine ⟨by decide, fun n r hn ha => ?_, fun n r hn ha => ?_⟩
  · match n with
    | 0 => exact absurd ha (by decide)
    | n + 1 => cases hn
  · match n with
    | 0 | 1 => exact absurd ha (by decide)
    | n + 2 => cases hn
theorem witness_Discovery :
    (State.reset.slot State.reset.cursor).conn = .disconnected ∧ (∀ k, (State.reset.slot k).conn = .disconnected) ∧
    (∀ c ∈ ([0x01, 0x02, 0x01, 0x02] : List Byte), c = 0x01 ∨ c = 0x02) := by decide
theorem witness_DefaultCycle : State.reset.phase = .idle ∧ State.reset.cfg = {} := by decide

/-- A step taken in the middle of a cycle of a machine that knows a module, from a state that meets every
invariant. -/
def invariantState : State :=
  { resetWith 0 ledSlot with phase := .out1, dir := .output, out := ⟨0x47, 0, 0, 0⟩, trace := [.dir .output] }

theorem witness_EveryStepKeepsTheRegisterFile :
    RegisterFileOk invariantState ∧ (∃ t, exec .update (resetWith 0 ledSlot) = .next t) ∧
    (∃ t, step invariantState = .next t) := by
  refine ⟨?_, ⟨_, exec_update (by decide)⟩, ⟨_, rfl⟩⟩
  simp only [RegisterFileOk, Slot.ok]
  decide
theorem witness_EveryStepKeepsTheLineDiscipline :
    LineOk invariantState ∧ ∃ t, step invariantState = .next t := by
  refine ⟨?_, ⟨_, rfl⟩⟩
  simp only [LineOk]
  decide
theorem witness_EveryStepKeepsTheBus : BusOk invariantState ∧ ∃ t, step invariantState = .next t := by
  refine ⟨?_, ⟨_, rfl⟩⟩
  simp only [BusOk, HostOnly]
  decide
theorem witness_EveryStepKeepsInput : InputOnlyWhenKnown invariantState ∧ ∃ t, step invariantState = .next t := by
  refine ⟨?_, ⟨_, rfl⟩⟩
  simp only [InputOnlyWhenKnown]
  decide
/-- A step with a transition: a module announces itself. -/
theorem witness_OnlyThreeConnectionTransitions :
    let s : State := { State.reset with inputs := [.word ⟨.reply .disconnected 0xFE, 0xFE⟩] }
    s.inputs.head? ≠ some .rst ∧ seen (step s) (fun t => (t.slot 0).conn) = some .discovered := by
  refine ⟨by decide, ?_⟩
  have h : decode {} ⟨.reply .disconnected 0xFE, 0xFE⟩ = .ok .discover := by decide
  simp only [step, State.busy, decode_ok_config _ h, exec, execDiscover, seen, replyByte_eq]
  decide
theorem witness_StepsKeepParameters :
    invariantState.inputs.head? ≠ some .rst ∧ ∃ t, step invariantState = .next t := ⟨by decide, ⟨_, rfl⟩⟩

end Sys2Proof.Tests
end

section
/-! Proofs of the statements about the state and its invariants (`10_state.md`): the reset values, what any
operation and any step can do to the register file, the parameters and the trace, and the cycle phase by
phase. -/

namespace Sys2Proof.Machine

/-! ### Reset -/

/-- After reset every slot is in its initial state (R28). -/
theorem slot_reset (k : SlotIx) : State.reset.slot k = Slot.initial := by
  match k with
  | 0 | 1 | 2 | 3 => rfl

theorem slot_resetMachine (s : State) (k : SlotIx) : (resetMachine s).slot k = Slot.initial := slot_reset k

/-- A machine whose slots are all in the initial state meets the invariants of the register file. -/
theorem registerFileOk_of_initial {s : State} (h : ∀ k, s.slot k = Slot.initial) : RegisterFileOk s :=
  fun k => (h k).symm ▸ initial_ok

/-- A machine whose slots are all in the initial state keeps no input byte. -/
theorem inputOnlyWhenKnown_of_initial {s : State} (h : ∀ k, s.slot k = Slot.initial) : InputOnlyWhenKnown s :=
  fun _ k _ => by rw [h k]; rfl

/-- Settles O12: the initial slot and the reset state are the table's rows. -/
theorem resetValues : Obligations.ResetValues :=
  ⟨slot_reset, rfl, rfl, rfl, rfl, rfl⟩

/-- Settles O58: every slot is initial, the trace is empty, the line is an input, and nothing is queued. -/
theorem resetMeetsTheInvariants : Obligations.ResetMeetsTheInvariants := by
  have hline : LineOk State.reset := rfl
  have hbus : BusOk State.reset := ⟨rfl, rfl, fun k hk => absurd hk List.not_mem_nil⟩
  exact ⟨registerFileOk_of_initial slot_reset, hline, hbus, inputOnlyWhenKnown_of_initial slot_reset⟩

/-! ### What can happen to a slot -/

/-- What any operation but a reset and the bare `recordInput` can make of one slot: nothing, a queue of at
most two bytes (R120), the poll of `justConn` (R186), a pop (R122), the discovery step (R140), or, in a whole
cycle, a pop and then the discovery step (R160). -/
inductive SlotStep (recordAll : Bool) : Slot → Slot → Prop where
  | keep (sl : Slot) : SlotStep recordAll sl sl
  | queue (sl : Slot) {q : List Byte} (hq : q.length ≤ qCap) : SlotStep recordAll sl (setPend q sl)
  | poll (sl : Slot) : SlotStep recordAll sl (clearJustConn sl)
  | pop (sl : Slot) : SlotStep recordAll sl (popOutput sl).2
  | discover (sl : Slot) (sent rx : Byte) : SlotStep recordAll sl (discoverySlot recordAll sent rx sl)
  | popDiscover (sl : Slot) (sent rx : Byte) :
      SlotStep recordAll sl (discoverySlot recordAll sent rx (popOutput sl).2)

theorem SlotStep.ok {all : Bool} {sl sl' : Slot} (h : SlotStep all sl sl') (hok : sl.ok) : sl'.ok := by
  cases h with
  | keep => exact hok
  | queue hq => exact setPend_ok hq hok
  | poll => exact clearJustConn_ok hok
  | pop => exact popOutput_ok hok
  | discover => exact discoverySlot_ok hok
  | popDiscover => exact discoverySlot_ok (popOutput_ok hok)

/-- A pop leaves the connection state, the type and the input byte (R122). -/
theorem popOutput_module (sl : Slot) :
    (popOutput sl).2.conn = sl.conn ∧ (popOutput sl).2.mtype = sl.mtype ∧ (popOutput sl).2.lastIn = sl.lastIn := by
  rw [popOutput_frame]
  exact ⟨rfl, rfl, rfl⟩

/-- Everything an arm of the discovery step can do: nothing, the announcement (R141), the type (R143), the
disconnect (R145), or the record (R147). -/
theorem discoveryArm_cases (sent rx : Byte) (sl : Slot) :
    discoveryArm sent rx sl = sl ∨
    (sl.conn = .disconnected ∧
      discoveryArm sent rx sl = setPend [codeTypeRequest] { sl with conn := .discovered }) ∨
    (∃ m, sl.conn = .discovered ∧ discoveryArm sent rx sl = becomeKnown m sl) ∨
    (sl.conn = .typeKnown ∧ discoveryArm sent rx sl = disconnectSlot sl) ∨
    (sl.conn = .typeKnown ∧ discoveryArm sent rx sl = storeInput rx sl) := by
  unfold discoveryArm
  split
  · next hc =>
    split
    · exact .inr (.inl ⟨hc, rfl⟩)
    · exact .inl rfl
  · next hc =>
    split
    · exact .inr (.inr (.inl ⟨.servo, hc, rfl⟩))
    · split
      · exact .inr (.inr (.inl ⟨.led, hc, rfl⟩))
      · exact .inl rfl
  · next hc =>
    split
    · exact .inr (.inr (.inr (.inl ⟨hc, rfl⟩)))
    · exact .inr (.inr (.inr (.inr ⟨hc, rfl⟩)))

/-! ### The input byte of one slot (R13) -/

/-- A slot that is not TypeKnown has no input byte. -/
def Slot.noStrayInput (sl : Slot) : Prop := sl.conn ≠ .typeKnown → sl.lastIn = 0x00

/-- With `RECORD_INPUT_ALL_STATES` off the discovery step records in TypeKnown alone (R147). -/
theorem discoverySlot_noStrayInput {sl : Slot} {sent rx : Byte} (h : sl.noStrayInput) :
    (discoverySlot false sent rx sl).noStrayInput := by
  show (discoveryArm sent rx sl).noStrayInput
  rcases discoveryArm_cases sent rx sl with e | ⟨hc, e⟩ | ⟨m, -, e⟩ | ⟨-, e⟩ | ⟨hc, e⟩ <;> rw [e]
  · exact h
  · exact fun _ => h (by simp [hc])
  · exact fun hk => absurd rfl hk
  · exact fun _ => rfl
  · exact fun hk => absurd hc hk

theorem popOutput_noStrayInput {sl : Slot} (h : sl.noStrayInput) : (popOutput sl).2.noStrayInput := by
  obtain ⟨hc, -, hi⟩ := popOutput_module sl
  exact fun hk => hi.trans (h (hc ▸ hk))

theorem SlotStep.noStrayInput {sl sl' : Slot} (h : SlotStep false sl sl') (hin : sl.noStrayInput) :
    sl'.noStrayInput := by
  cases h with
  | keep => exact hin
  | queue => exact hin
  | poll => exact hin
  | pop => exact popOutput_noStrayInput hin
  | discover => exact discoverySlot_noStrayInput hin
  | popDiscover => exact discoverySlot_noStrayInput (popOutput_noStrayInput hin)

/-! ### The lifecycle of one slot (R11, R12) -/

/-- The connection state stays or takes one of the three transitions, and a slot that stays TypeKnown keeps its
type. -/
def LifecycleStep (sl sl' : Slot) : Prop :=
  connStep sl.conn sl'.conn = true ∧ (sl.conn = .typeKnown → sl'.conn = .typeKnown → sl'.mtype = sl.mtype)

/-- A slot that keeps its connection state and its type takes no transition. -/
theorem LifecycleStep.of_eq {sl sl' : Slot} (hc : sl'.conn = sl.conn) (hm : sl'.mtype = sl.mtype) :
    LifecycleStep sl sl' := by
  refine ⟨?_, fun _ _ => hm⟩
  rw [hc]
  cases sl.conn <;> rfl

theorem discoveryArm_lifecycle (sent rx : Byte) (sl : Slot) : LifecycleStep sl (discoveryArm sent rx sl) := by
  rcases discoveryArm_cases sent rx sl with e | ⟨hc, e⟩ | ⟨m, hc, e⟩ | ⟨hc, e⟩ | ⟨-, e⟩ <;> rw [e]
  · exact .of_eq rfl rfl
  · exact ⟨by rw [hc]; rfl, fun hk => by rw [hc] at hk; cases hk⟩
  · exact ⟨by rw [hc]; rfl, fun hk => by rw [hc] at hk; cases hk⟩
  · exact ⟨by rw [hc]; rfl, fun _ hk => by cases hk⟩
  · exact .of_eq rfl rfl

/-- The record that `RECORD_INPUT_ALL_STATES` adds is no transition. -/
theorem discoverySlot_lifecycle (all : Bool) (sent rx : Byte) (sl : Slot) :
    LifecycleStep sl (discoverySlot all sent rx sl) := by
  cases all <;> exact discoveryArm_lifecycle sent rx sl

theorem SlotStep.lifecycle {all : Bool} {sl sl' : Slot} (h : SlotStep all sl sl') : LifecycleStep sl sl' := by
  cases h with
  | keep => exact .of_eq rfl rfl
  | queue => exact .of_eq rfl rfl
  | poll => exact .of_eq rfl rfl
  | pop =>
    obtain ⟨hc, hm, -⟩ := popOutput_module sl
    exact .of_eq hc hm
  | discover => exact discoverySlot_lifecycle ..
  | popDiscover sent rx =>
    obtain ⟨hc, hm, -⟩ := popOutput_module sl
    have hd := discoverySlot_lifecycle all sent rx (popOutput sl).2
    rwa [LifecycleStep, hc, hm] at hd

/-! ### What an operation does to the register file, the parameters and the trace -/

/-- Each slot takes one of its steps, the parameters stay, and the trace only grows. -/
structure Progress (s t : State) : Prop where
  slot : ∀ k, SlotStep s.cfg.recordAll (s.slot k) (t.slot k)
  cfg : t.cfg = s.cfg
  trace : s.trace <+: t.trace

/-- An operation that is one state function, and always answers. -/
theorem Progress.of_next {s t u : State} (hu : Progress s u) (h : Host.Outcome.next u = (.next t : Result)) :
    Progress s t :=
  Host.Outcome.next.inj h ▸ hu

/-- An operation that leaves the register file alone. -/
theorem Progress.of_slots_eq {s t : State} (hs : t.slots = s.slots) (hc : t.cfg = s.cfg)
    (ht : s.trace <+: t.trace) : Progress s t where
  slot k := by rw [State.slot, State.slot, hs]; exact .keep _
  cfg := hc
  trace := ht

/-- An operation that writes one slot. -/
theorem Progress.of_slots_set {s t : State} {k : SlotIx} {sl : Slot} (hs : t.slots = s.slots.set k sl)
    (hk : SlotStep s.cfg.recordAll (s.slot k) sl) (hc : t.cfg = s.cfg) (ht : s.trace <+: t.trace) :
    Progress s t where
  slot j := by
    rw [State.slot, State.slot, hs, Quad.get_set]
    split
    · next h => subst h; exact hk
    · exact .keep _
  cfg := hc
  trace := ht

/-- What is still queued at the input plays no part. -/
theorem Progress.of_inputs {s t : State} {rest : List Input} (h : Progress { s with inputs := rest } t) :
    Progress s t :=
  ⟨h.slot, h.cfg, h.trace⟩

theorem Progress.refl (s : State) : Progress s s := .of_slots_eq rfl rfl List.prefix_rfl

theorem Progress.respond {s t : State} (h : Progress s t) (r : Response) : Progress s (respond r t) :=
  ⟨h.slot, h.cfg, h.trace⟩

theorem Progress.enterPhase {s t : State} (h : Progress s t) (p : Phase) : Progress s (enterPhase p t) :=
  ⟨h.slot, h.cfg, h.trace⟩

theorem onSlot_progress {k : SlotIx} {f : Slot → Slot} {s : State}
    (hf : SlotStep s.cfg.recordAll (s.slot k) (f (s.slot k))) : Progress s (onSlot k f s) :=
  .of_slots_set rfl hf rfl List.prefix_rfl

theorem sendByte_progress (v : Byte) (s : State) : Progress s (sendByte v s) := by
  rw [sendByte_eq]
  exact .of_slots_eq rfl rfl (List.prefix_append ..)

theorem receiveReply_progress (s : State) : Progress s (receiveReply s) := by
  rw [receiveReply_eq]
  exact .of_slots_eq rfl rfl (List.prefix_append ..)

theorem receiveGiven_progress (b : Byte) (s : State) : Progress s (receiveReply (supplyReply b s)) := by
  rw [receiveReply_supplyReply]
  exact .of_slots_eq rfl rfl (List.prefix_append ..)

theorem replyByte_progress (b : Byte) (s : State) : Progress s (replyByte b s) := by
  rw [replyByte_eq]
  exact .of_slots_set rfl (.discover ..) rfl (List.prefix_append ..)

theorem dsmStep_progress (k : SlotIx) (sent rx : Byte) (s : State) : Progress s (dsmStep k sent rx s) :=
  onSlot_progress (.discover ..)

theorem nextOutput_progress (k : SlotIx) (s : State) : Progress s (nextOutput k s) :=
  .of_slots_set rfl (.pop _) rfl List.prefix_rfl

theorem sendOutput_progress (k : SlotIx) (s : State) : Progress s (sendOutput k s) := by
  rw [sendOutput_eq]
  exact .of_slots_set rfl (.pop _) rfl (List.prefix_append ..)

theorem sendChecksum_progress (s : State) : Progress s (sendChecksum s) := by
  rw [sendChecksum, sendByte_eq]
  exact .of_slots_eq rfl rfl (List.prefix_append ..)

theorem dispatchReply_progress (s : State) : Progress s (dispatchReply s) :=
  .of_slots_set rfl (.discover ..) rfl List.prefix_rfl

theorem updateCycle_progress (s : State) : Progress s (updateCycle s) where
  slot k := by
    rw [updateCycle_slot]
    split
    · exact .popDiscover ..
    · exact .pop _
  cfg := updateCycle_cfg s
  trace := by rw [updateCycle_eq]; exact List.prefix_append ..

/-- Format F sends six bytes and receives one; it writes no slot (R62). -/
theorem execFrame_progress {o : Quad Byte} {sum : BitVec 4} {slot : SlotIx} {b : Byte} {s t : State}
    (h : execFrame o sum slot b s = .next t) : Progress s t := by
  simp only [execFrame, sendHeader, sendByte_eq, receiveReply_supplyReply, List.append_assoc] at h
  cases h
  exact .of_slots_eq rfl rfl (List.prefix_append ..)

/-- The work of a phase (R21). -/
theorem tick_progress (s : State) : Progress s (tick s) := by
  unfold tick
  cases s.phase with
  | idle => exact .refl s
  | hdr => exact (sendByte_progress ..).enterPhase _
  | out0 | out1 | out2 | out3 => exact (sendOutput_progress ..).enterPhase _
  | cks => exact (sendChecksum_progress s).enterPhase _
  | rx => exact (receiveReply_progress s).enterPhase _
  | dispatch => exact (dispatchReply_progress s).enterPhase _

/-! ### The operand checks, when they let an operation through -/

theorem withSlot_next {k : Nat} {f : SlotIx → Result} {t : State} (h : withSlot k f = .next t) :
    ∃ j : SlotIx, j.val = k ∧ f j = .next t := by
  unfold withSlot at h
  split at h
  · next hk => exact ⟨⟨k, hk⟩, rfl, h⟩
  · cases h

theorem asHost_next {s t : State} {r : Result} (h : asHost s r = .next t) : r = .next t := by
  unfold asHost at h
  split at h
  · cases h
  · exact h

theorem withAngle_next {deg : Nat} {r : Result} {t : State} (h : withAngle deg r = .next t) : r = .next t := by
  unfold withAngle at h
  split at h
  · exact h
  · cases h

theorem withQueue_next {q : List Byte} {r : Result} {t : State} (h : withQueue q r = .next t) :
    q.length ≤ qCap ∧ r = .next t := by
  unfold withQueue at h
  split at h
  · next hq => exact ⟨by simp only [queueOk, Bool.and_eq_true, decide_eq_true_eq] at hq; exact hq.2, h⟩
  · cases h

/-! ### The host's operations -/

theorem queueOf_length (b0 : Byte) (b1 : Option Byte) : (queueOf b0 b1).length ≤ qCap := by
  cases b1 <;> simp [queueOf, qCap]

theorem enqueue_progress {k : Nat} {q : List Byte} {s t : State} (hq : q.length ≤ qCap)
    (h : enqueue k q s = .next t) : Progress s t := by
  obtain ⟨-, j, -, rfl⟩ := enqueue_next h
  exact .of_slots_set rfl (.queue _ hq) rfl List.prefix_rfl

theorem query_progress {k : Nat} {a : Slot → Byte} {f : Slot → Slot} {s t : State}
    (hf : ∀ all sl, SlotStep all sl (f sl)) (h : query k a f s = .next t) : Progress s t := by
  obtain ⟨-, j, -, rfl⟩ := query_next h
  exact .of_slots_set rfl (hf ..) rfl List.prefix_rfl

theorem execServoPos_progress {k deg : Nat} {s t : State} (h : execServoPos k deg s = .next t) : Progress s t :=
  enqueue_progress (queueOf_length _ none) (withAngle_next (asHost_next h))

theorem ignoreReserved_progress {s t : State} (h : ignoreReserved s = .next t) : Progress s t := by
  obtain ⟨-, rfl⟩ := ignoreReserved_next h
  exact (Progress.refl s).respond _

theorem execUpdate_progress {s t : State} (h : execUpdate s = .next t) : Progress s t := by
  obtain ⟨-, rfl⟩ := execUpdate_next h
  exact (updateCycle_progress s).respond _

/-! ### The internal operations -/

theorem execSetPendingOutput_progress {k : Nat} {q : List Byte} {s t : State}
    (h : execSetPendingOutput k q s = .next t) : Progress s t := by
  obtain ⟨hq, hw⟩ := withQueue_next h
  obtain ⟨j, -, hj⟩ := withSlot_next hw
  exact .of_next (onSlot_progress (.queue _ hq)) hj

theorem execNextOutputByte_progress {k : Nat} {s t : State} (h : execNextOutputByte k s = .next t) :
    Progress s t := by
  obtain ⟨j, -, hj⟩ := withSlot_next h
  exact .of_next (nextOutput_progress ..) hj

theorem execDsmStep_progress {k : Nat} {sent rx : Byte} {s t : State} (h : execDsmStep k sent rx s = .next t) :
    Progress s t := by
  obtain ⟨j, -, hj⟩ := withSlot_next h
  exact .of_next (dsmStep_progress ..) hj

theorem execCompute_progress {out : Quad Byte} {k : SlotIx} {s t : State} (h : execCompute out k s = .next t) :
    Progress s t := by
  cases h
  exact .of_slots_eq rfl rfl List.prefix_rfl

/-! ### Every operation and every step -/

/-- Everything an operation that answers can do to the register file, the parameters and the trace: a reset,
the bare record of an input byte, or progress. -/
theorem exec_cases {i : Instr} {s t : State} (h : exec i s = .next t) :
    (i = .reset ∧ t = resetMachine s) ∨
    (∃ (k : SlotIx) (b : Byte), i = .recordInput k.val b ∧ t = onSlot k (storeInput b) s) ∨
    Progress s t := by
  match i, h with
  | .reset, h => exact .inl ⟨rfl, (Host.Outcome.next.inj h).symm⟩
  | .recordInput k b, (h : execRecordInput k b s = .next t) =>
    obtain ⟨j, rfl, hj⟩ := withSlot_next h
    exact .inr (.inl ⟨j, b, rfl, (Host.Outcome.next.inj hj).symm⟩)
  | .setPendingOutput _ _, h => exact .inr (.inr (execSetPendingOutput_progress h))
  | .nextOutputByte _, h => exact .inr (.inr (execNextOutputByte_progress h))
  | .dsmStep _ _ _, h => exact .inr (.inr (execDsmStep_progress h))
  | .compute _ _, h => exact .inr (.inr (execCompute_progress h))
  | .receiveByte, h => exact .inr (.inr (.of_next (receiveReply_progress s) h))
  | .lineReceivedByte _, h => exact .inr (.inr (.of_next (receiveGiven_progress ..) h))
  | .frame _ _ _ _, h => exact .inr (.inr (execFrame_progress h))
  | .update, h => exact .inr (.inr (execUpdate_progress h))
  | .setPending _ b0 b1, h => exact .inr (.inr (enqueue_progress (queueOf_length b0 b1) h))
  | .servoPos _ _, h => exact .inr (.inr (execServoPos_progress h))
  | .servoLim _, h => exact .inr (.inr (enqueue_progress (queueOf_length _ none) h))
  | .servoColor _ _, h => exact .inr (.inr (enqueue_progress (queueOf_length _ none) h))
  | .ledColor _ _ _ _ _, h => exact .inr (.inr (enqueue_progress (queueOf_length _ (some _)) h))
  | .getJustConnected k, (h : execGetJustConnected k s = .next t) =>
    exact .inr (.inr (query_progress (fun _ => .poll) h))
  | .getConnected k, (h : execGetConnected k s = .next t)
  | .getType k, (h : execGetType k s = .next t)
  | .getInput k, (h : execGetInput k s = .next t) => exact .inr (.inr (query_progress (f := id) (fun _ => .keep) h))
  | .reservedOp0, h | .reservedOp7, h | .reservedOp8, h | .reservedOp9, h | .reservedOpA, h | .reservedOpB, h
  | .reservedOpC, h | .reservedOpD, h | .reservedOpE, h | .reservedOpF, h | .reservedZeroBit, h =>
    exact .inr (.inr (ignoreReserved_progress h))
  | .sendByte _, h | .lineSentByte _, h | .checksumByte _ _, h | .header, h | .noModule, h | .typeRequest, h
  | .nilByte, h | .servoLimitMode, h | .servoPositionByte _, h | .ledByte1 _ _, h | .ledByte2 _ _, h =>
    exact .inr (.inr (.of_next (sendByte_progress ..) h))
  | .discover, h | .disconnect, h | .typeServo, h | .typeLed, h | .recordedInput _, h =>
    exact .inr (.inr (.of_next (replyByte_progress ..) h))

/-- A row that has a word makes progress: the reset and the bare record are internal (R71). -/
theorem exec_progress {i : Instr} {s t : State} (hi : i.isInternal = false) (h : exec i s = .next t) :
    Progress s t := by
  rcases exec_cases h with ⟨rfl, -⟩ | ⟨k, b, rfl, -⟩ | hp
  · cases hi
  · cases hi
  · exact hp

theorem absorbWord_progress {c : Code} {e : DecodeError} {s t : State} (h : absorbWord c e s = .next t) :
    Progress s t := by
  rcases absorbWord_next h with rfl | rfl
  · exact sendByte_progress ..
  · exact replyByte_progress ..

/-- A step that goes on is the reset signal, or progress. -/
theorem step_progress {s t : State} (h : step s = .next t) :
    (∃ rest, s.inputs = .rst :: rest ∧ t = resetMachine { s with inputs := rest }) ∨ Progress s t := by
  rcases step_cases h with hreset | ⟨-, -, rfl⟩ | ⟨rest, -, -, rfl⟩ | ⟨c, rest, i, -, -, hd, he⟩ |
    ⟨c, rest, e, -, -, -, ha⟩
  · exact .inl hreset
  · exact .inr (tick_progress s)
  · exact .inr (((Progress.refl _).enterPhase _).respond _).of_inputs
  · exact .inr (exec_progress (decode_not_internal hd) he).of_inputs
  · exact .inr (absorbWord_progress ha).of_inputs

/-- A step that is not the reset signal makes progress. -/
theorem step_progress_of_no_reset {s t : State} (hr : s.inputs.head? ≠ some .rst) (h : step s = .next t) :
    Progress s t := by
  rcases step_progress h with ⟨rest, hi, -⟩ | hp
  · exact absurd (by rw [hi]; rfl) hr
  · exact hp

/-! ### The invariants -/

theorem Progress.registerFileOk {s t : State} (h : Progress s t) (hok : RegisterFileOk s) : RegisterFileOk t :=
  fun k => (h.slot k).ok (hok k)

theorem registerFileOk_storeInput {s : State} {k : SlotIx} {b : Byte} (hok : RegisterFileOk s) :
    RegisterFileOk (onSlot k (storeInput b) s) := by
  intro j
  rw [slot_onSlot]
  split
  · exact storeInput_ok (hok k)
  · exact hok j

theorem exec_registerFileOk {i : Instr} {s t : State} (hok : RegisterFileOk s) (h : exec i s = .next t) :
    RegisterFileOk t := by
  rcases exec_cases h with ⟨-, rfl⟩ | ⟨k, b, -, rfl⟩ | hp
  · exact registerFileOk_of_initial (slot_resetMachine s)
  · exact registerFileOk_storeInput hok
  · exact hp.registerFileOk hok

theorem step_registerFileOk {s t : State} (hok : RegisterFileOk s) (h : step s = .next t) : RegisterFileOk t := by
  rcases step_progress h with ⟨rest, -, rfl⟩ | hp
  · exact registerFileOk_of_initial (slot_resetMachine _)
  · exact hp.registerFileOk hok

theorem Progress.inputOnlyWhenKnown {s t : State} (h : Progress s t) (hin : InputOnlyWhenKnown s) :
    InputOnlyWhenKnown t := by
  intro hall k
  have hs : s.cfg.recordAll = false := h.cfg ▸ hall
  exact (hs ▸ h.slot k).noStrayInput (hin hs k)

/-- Settles O54: every operation is a reset, the record of an input byte, or a `SlotStep` in each slot, and each
of these keeps the slot's invariants. -/
theorem everyStepKeepsTheRegisterFile : Obligations.EveryStepKeepsTheRegisterFile :=
  ⟨fun _ _ _ => exec_registerFileOk, fun _ _ => step_registerFileOk⟩

/-- Settles O57: no step runs the bare `recordInput`, and the discovery step records in TypeKnown alone. -/
theorem everyStepKeepsInputForKnownSlots : Obligations.EveryStepKeepsInputForKnownSlots := by
  intro s t hin h
  rcases step_progress h with ⟨rest, -, rfl⟩ | hp
  · exact inputOnlyWhenKnown_of_initial (slot_resetMachine _)
  · exact hp.inputOnlyWhenKnown hin

/-- Settles O59: only the discovery step writes the connection state or the type, and a step runs it at most
once on a slot. -/
theorem onlyThreeConnectionTransitions : Obligations.OnlyThreeConnectionTransitions :=
  fun _ _ hr h k => ((step_progress_of_no_reset hr h).slot k).lifecycle

/-- Settles O60: the reset signal keeps the parameters too, and any other step makes progress. -/
theorem stepsKeepParametersAndHistory : Obligations.StepsKeepParametersAndHistory := by
  intro s t h
  constructor
  · rcases step_progress h with ⟨rest, -, rfl⟩ | hp
    · rfl
    · exact hp.cfg
  · intro hr
    obtain ⟨es, hes⟩ := (step_progress_of_no_reset hr h).trace
    exact ⟨es, hes.symm⟩

/-! ### A cycle phase by phase (R21, R44) -/

/-- The work of a phase, without the change of phase (R160). -/
def phaseWork : Phase → State → State
  | .idle => id
  | .hdr => sendHeader
  | .out0 => sendOutput 0
  | .out1 => sendOutput 1
  | .out2 => sendOutput 2
  | .out3 => sendOutput 3
  | .cks => sendChecksum
  | .rx => receiveReply
  | .dispatch => dispatchReply

/-- The phase the sequencer goes to when the work is done (R21). -/
def nextPhase : Phase → Phase
  | .idle => .idle
  | .hdr => .out0
  | .out0 => .out1
  | .out1 => .out2
  | .out2 => .out3
  | .out3 => .cks
  | .cks => .rx
  | .rx => .dispatch
  | .dispatch => .idle

@[simp] theorem enterPhase_enterPhase (p q : Phase) (s : State) : enterPhase p (enterPhase q s) = enterPhase p s := rfl

/-- A tick is the work of the phase and then the change of phase; the work does not read the phase register. -/
theorem tick_enterPhase (p : Phase) (s : State) :
    tick (enterPhase p s) = enterPhase (nextPhase p) (phaseWork p s) := by
  cases p <;> simp only [tick, enterPhase_phase, nextPhase, phaseWork, sendHeader_enterPhase, sendOutput_enterPhase,
    sendChecksum_enterPhase, receiveReply_enterPhase, dispatchReply_enterPhase,
    enterPhase_enterPhase, id]

@[simp] theorem phaseWork_inputs (p : Phase) (s : State) : (phaseWork p s).inputs = s.inputs := by
  have h := tick_inputs (enterPhase p s)
  rwa [tick_enterPhase] at h

/-- While a cycle is in progress and no reset comes, a step is a tick and takes no input (R164). -/
theorem step_busy {s : State} (hp : s.phase ≠ .idle) (hr : s.inputs.head? ≠ some .rst) :
    step s = .next (tick s) := by
  unfold step
  split
  · next rest hi => exact absurd (by rw [hi]; rfl) hr
  · exact if_pos (busy_of_not_idle hp)
  · rw [if_pos (busy_of_not_idle hp)]
  · rfl

/-- The first of several steps in a phase of the cycle. -/
theorem runSteps_phase {n : Nat} {p : Phase} {s : State} (hr : s.inputs.head? ≠ some .rst) (hp : p ≠ .idle) :
    runSteps (n + 1) (enterPhase p s) = runSteps n (enterPhase (nextPhase p) (phaseWork p s)) := by
  rw [runSteps, step_busy (s := enterPhase p s) hp hr, andThen, tick_enterPhase]

/-- Eight phases, from Hdr to Dispatch, are the cycle (R160). -/
theorem runSteps_cycle {s : State} (hr : s.inputs.head? ≠ some .rst) :
    runSteps 8 (enterPhase .hdr s) = .next (enterPhase .idle (updateCycle s)) := by
  simp only [runSteps_phase, nextPhase, phaseWork_inputs, hr, ne_eq, reduceCtorEq, not_false_eq_true]
  rfl

/-- A cycle does not touch the response port or the phase it was begun in (R164). -/
theorem updateCycle_begun {s : State} (hp : s.phase = .idle) :
    enterPhase .idle (updateCycle (respond .silent s)) = respond .silent (updateCycle s) := by
  simp only [updateCycle_eq, respond, enterPhase, State.reply, State.answers, hp]

/-- The word UPDATE of format H, with every ignored field 0 (R71). -/
theorem decode_updateWord (cfg : Config) : decode cfg ⟨.host, 0x100000⟩ = .ok .update :=
  decode_ok_config (cfg := {}) cfg (by decide)

theorem step_updateWord {s : State} {rest : List Input} (hp : s.phase = .idle) :
    step { s with inputs := .word ⟨.host, 0x100000⟩ :: rest } =
      .next (respond .silent (updateCycle { s with inputs := rest })) := by
  have hexec := exec_update (s := { s with inputs := rest }) hp
  simpa [step, State.busy, hp, decode_updateWord] using hexec

theorem step_updateStart {s : State} {rest : List Input} (hp : s.phase = .idle) :
    step { s with inputs := .updateStart :: rest } = .next (beginCycle { s with inputs := rest }) := by
  simp [step, State.busy, hp, beginCycle, enterPhase, respond]

/-- Settles O42: the first step begins the cycle in Hdr, and the eight phases then do the cycle's work in the
cycle's order. -/
theorem phasesMakeTheAtomicCycle : Obligations.PhasesMakeTheAtomicCycle := by
  intro s rest hp hr
  calc runSteps 9 { s with inputs := .updateStart :: rest }
      = runSteps 8 (enterPhase .hdr (respond .silent { s with inputs := rest })) := by
        rw [runSteps, step_updateStart hp]; rfl
    _ = .next (enterPhase .idle (updateCycle (respond .silent { s with inputs := rest }))) := runSteps_cycle hr
    _ = .next (respond .silent (updateCycle { s with inputs := rest })) :=
        congrArg _ (updateCycle_begun (s := { s with inputs := rest }) hp)
    _ = step { s with inputs := .word ⟨.host, 0x100000⟩ :: rest } := (step_updateWord hp).symm

end Sys2Proof.Machine
end

section
/-! Proofs of the statements about the line and the order of bits and bytes on it (`20_memory.md`): how a step
runs the word it takes, the line's discipline, the order of the bits of a byte, of the bytes of a cycle, and of
the two bytes of an output. -/

namespace Sys2Proof.Machine

/-! ### The word a step takes (R44, R70) -/

/-- Settles O6: an idle step with a word at the head of its inputs runs what the word decodes to. -/
theorem stepRunsTheDecodedInstruction : Obligations.StepRunsTheDecodedInstruction := by
  intro s c rest i hp hin hdec
  simp only [step, hin, busy_of_idle hp, hdec, Bool.false_eq_true, if_false]

/-- Settles O7: the placed word has the format the decoder reads a table word in, and the state is idle. -/
theorem placedTableWordRunsNext : Obligations.PlacedTableWordRunsNext := by
  intro s n w i h
  obtain ⟨f, hf, hdec⟩ := decodeTableWord_some h
  have hin : (s.withFetchWord n w).inputs = .word ⟨f, w⟩ :: s.inputs := by
    simp only [State.withFetchWord, hf, Option.getD_some]
  exact stepRunsTheDecodedInstruction _ _ _ i rfl hin (hdec _)

/-! ### The line's discipline (R54, R101) -/

/-- What is added to the trace keeps the line's discipline from the direction before to the direction after. -/
def LineStep (s t : State) : Prop := ∃ es, t.trace = s.trace ++ es ∧ lineScan s.dir es = some t.dir

theorem LineStep.lineOk {s t : State} (h : LineStep s t) (hok : LineOk s) : LineOk t := by
  obtain ⟨es, htrace, hscan⟩ := h
  rw [LineOk, htrace, lineScan_append, hok]
  exact hscan

/-- A reset empties the trace and makes the line an input (R28). -/
theorem lineOk_resetMachine (s : State) : LineOk (resetMachine s) := rfl

theorem LineStep.trans {s t u : State} (hst : LineStep s t) (htu : LineStep t u) : LineStep s u := by
  obtain ⟨es, htrace, hscan⟩ := hst
  obtain ⟨fs, utrace, uscan⟩ := htu
  refine ⟨es ++ fs, by rw [utrace, htrace, List.append_assoc], ?_⟩
  rw [lineScan_append, hscan]
  exact uscan

/-- An operation that does not touch the line. -/
theorem LineStep.of_quiet {s t : State} (htrace : t.trace = s.trace) (hdir : t.dir = s.dir) : LineStep s t :=
  ⟨[], by rw [htrace, List.append_nil], congrArg some hdir.symm⟩

theorem LineStep.respond {s t : State} (h : LineStep s t) (r : Response) : LineStep s (respond r t) := h

theorem LineStep.enterPhase {s t : State} (h : LineStep s t) (p : Phase) : LineStep s (enterPhase p t) := h

/-- An operation that is one state function, and always answers. -/
theorem LineStep.of_next {s t u : State} (hu : LineStep s u) (h : Host.Outcome.next u = (.next t : Result)) :
    LineStep s t :=
  Host.Outcome.next.inj h ▸ hu

/-! #### The engine's work -/

theorem sendByte_lineStep (v : Byte) (s : State) : LineStep s (sendByte v s) := by
  rw [sendByte_eq]
  exact ⟨_, rfl, lineScan_sentEvents ..⟩

theorem receiveReply_lineStep (s : State) : LineStep s (receiveReply s) := by
  rw [receiveReply_eq]
  exact ⟨_, rfl, lineScan_receivedEvents ..⟩

theorem receiveGiven_lineStep (b : Byte) (s : State) : LineStep s (receiveReply (supplyReply b s)) :=
  receiveReply_lineStep (supplyReply b s)

theorem replyByte_lineStep (b : Byte) (s : State) : LineStep s (replyByte b s) :=
  (receiveGiven_lineStep b s).trans (.of_quiet rfl rfl)

theorem onSlot_lineStep (k : SlotIx) (f : Slot → Slot) (s : State) : LineStep s (onSlot k f s) := .of_quiet rfl rfl

theorem nextOutput_lineStep (k : SlotIx) (s : State) : LineStep s (nextOutput k s) := .of_quiet rfl rfl

theorem sendOutput_lineStep (k : SlotIx) (s : State) : LineStep s (sendOutput k s) :=
  (nextOutput_lineStep k s).trans (sendByte_lineStep ..)

theorem sendChecksum_lineStep (s : State) : LineStep s (sendChecksum s) :=
  sendByte_lineStep _ { s with cks := checksum s.out s.cursor }

theorem dispatchReply_lineStep (s : State) : LineStep s (dispatchReply s) := .of_quiet rfl rfl

theorem sendFrame_lineStep (s : State) : LineStep s (sendFrame s) :=
  (sendByte_lineStep codeHeader s).trans <| (sendOutput_lineStep 0 _).trans <| (sendOutput_lineStep 1 _).trans <|
    (sendOutput_lineStep 2 _).trans <| (sendOutput_lineStep 3 _).trans (sendChecksum_lineStep _)

theorem updateCycle_lineStep (s : State) : LineStep s (updateCycle s) :=
  (sendFrame_lineStep s).trans <| (receiveReply_lineStep _).trans (dispatchReply_lineStep _)

theorem phaseWork_lineStep (p : Phase) (s : State) : LineStep s (phaseWork p s) := by
  cases p with
  | idle => exact .of_quiet rfl rfl
  | hdr => exact sendByte_lineStep ..
  | out0 | out1 | out2 | out3 => exact sendOutput_lineStep ..
  | cks => exact sendChecksum_lineStep s
  | rx => exact receiveReply_lineStep s
  | dispatch => exact dispatchReply_lineStep s

theorem tick_lineStep (s : State) : LineStep s (tick s) := by
  have h : tick s = enterPhase (nextPhase s.phase) (phaseWork s.phase s) := tick_enterPhase s.phase s
  rw [h]
  exact (phaseWork_lineStep ..).enterPhase _

/-! #### The instructions -/

theorem enqueue_lineStep {k : Nat} {q : List Byte} {s t : State} (h : enqueue k q s = .next t) : LineStep s t := by
  obtain ⟨-, j, -, rfl⟩ := enqueue_next h
  exact .of_quiet rfl rfl

theorem query_lineStep {k : Nat} {a : Slot → Byte} {f : Slot → Slot} {s t : State}
    (h : query k a f s = .next t) : LineStep s t := by
  obtain ⟨-, j, -, rfl⟩ := query_next h
  exact .of_quiet rfl rfl

theorem ignoreReserved_lineStep {s t : State} (h : ignoreReserved s = .next t) : LineStep s t := by
  obtain ⟨-, rfl⟩ := ignoreReserved_next h
  exact .of_quiet rfl rfl

theorem execUpdate_lineStep {s t : State} (h : execUpdate s = .next t) : LineStep s t := by
  obtain ⟨-, rfl⟩ := execUpdate_next h
  exact (updateCycle_lineStep s).respond _

/-- An internal operation on one slot that does not touch the line. -/
theorem withSlot_lineStep {k : Nat} {f : SlotIx → State} {s t : State} (hf : ∀ j, LineStep s (f j))
    (h : withSlot k (fun j => .next (f j)) = .next t) : LineStep s t := by
  obtain ⟨j, -, hj⟩ := withSlot_next h
  exact .of_next (hf j) hj

/-- Format F: six sent bytes, then a receive (R62). -/
theorem execFrame_lineStep {o : Quad Byte} {sum : BitVec 4} {slot : SlotIx} {b : Byte} {s t : State}
    (h : execFrame o sum slot b s = .next t) : LineStep s t := by
  refine .of_next ?_ h
  exact (sendByte_lineStep codeHeader { s with out := o, cks := checksumBits sum slot }).trans <|
    (sendByte_lineStep o.q0 _).trans <| (sendByte_lineStep o.q1 _).trans <| (sendByte_lineStep o.q2 _).trans <|
    (sendByte_lineStep o.q3 _).trans <| (sendByte_lineStep _ _).trans (receiveGiven_lineStep b _)

/-- Every operation but a reset keeps the line's discipline. -/
theorem exec_lineStep {i : Instr} {s t : State} (hi : i ≠ .reset) (h : exec i s = .next t) : LineStep s t := by
  match i, h with
  | .reset, _ => exact absurd rfl hi
  | .update, h => exact execUpdate_lineStep h
  | .frame _ _ _ _, h => exact execFrame_lineStep h
  | .receiveByte, h => exact .of_next (receiveReply_lineStep s) h
  | .lineReceivedByte _, h => exact .of_next (receiveGiven_lineStep ..) h
  | .compute out k, h => exact .of_next (u := { s with cks := checksum out k }) (.of_quiet rfl rfl) h
  | .setPendingOutput _ q, h => exact withSlot_lineStep (fun j => onSlot_lineStep j (setPend q) s) (withQueue_next h).2
  | .nextOutputByte _, h => exact withSlot_lineStep (fun j => nextOutput_lineStep j s) h
  | .recordInput _ b, h => exact withSlot_lineStep (fun j => onSlot_lineStep j (storeInput b) s) h
  | .dsmStep _ sent rx, h =>
    exact withSlot_lineStep (fun j => onSlot_lineStep j (discoverySlot s.cfg.recordAll sent rx) s) h
  | .servoPos _ _, h => exact enqueue_lineStep (withAngle_next (asHost_next h))
  | .setPending _ _ _, h | .servoLim _, h | .servoColor _ _, h | .ledColor _ _ _ _ _, h =>
    exact enqueue_lineStep h
  | .getConnected k, (h : execGetConnected k s = .next t)
  | .getJustConnected k, (h : execGetJustConnected k s = .next t)
  | .getType k, (h : execGetType k s = .next t)
  | .getInput k, (h : execGetInput k s = .next t) => exact query_lineStep h
  | .reservedOp0, h | .reservedOp7, h | .reservedOp8, h | .reservedOp9, h | .reservedOpA, h | .reservedOpB, h
  | .reservedOpC, h | .reservedOpD, h | .reservedOpE, h | .reservedOpF, h | .reservedZeroBit, h =>
    exact ignoreReserved_lineStep h
  | .sendByte _, h | .lineSentByte _, h | .checksumByte _ _, h | .header, h | .noModule, h | .typeRequest, h
  | .nilByte, h | .servoLimitMode, h | .servoPositionByte _, h | .ledByte1 _ _, h | .ledByte2 _ _, h =>
    exact .of_next (sendByte_lineStep ..) h
  | .discover, h | .disconnect, h | .typeServo, h | .typeLed, h | .recordedInput _, h =>
    exact .of_next (replyByte_lineStep ..) h

theorem absorbWord_lineStep {c : Code} {e : DecodeError} {s t : State} (h : absorbWord c e s = .next t) :
    LineStep s t := by
  rcases absorbWord_next h with rfl | rfl
  · exact sendByte_lineStep ..
  · exact replyByte_lineStep ..

/-- A step that goes on is the reset signal, or keeps the line's discipline. -/
theorem step_lineStep {s t : State} (h : step s = .next t) :
    (∃ rest, s.inputs = .rst :: rest ∧ t = resetMachine { s with inputs := rest }) ∨ LineStep s t := by
  rcases step_cases h with hreset | ⟨-, -, rfl⟩ | ⟨rest, -, -, rfl⟩ | ⟨c, rest, i, -, -, hd, he⟩ |
    ⟨c, rest, e, -, -, -, ha⟩
  · exact .inl hreset
  · exact .inr (tick_lineStep s)
  · exact .inr (.of_quiet rfl rfl)
  · have hi : i ≠ .reset := by
      rintro rfl
      cases decode_not_internal hd
    exact .inr (exec_lineStep (s := { s with inputs := rest }) hi he)
  · exact .inr (absorbWord_lineStep (s := { s with inputs := rest }) ha)

/-- Settles O55: a reset starts a new trace, and what any other step adds to the trace takes the line from the
direction before to the direction after. -/
theorem everyStepKeepsTheLineDiscipline : Obligations.EveryStepKeepsTheLineDiscipline := by
  intro s t hok h
  rcases step_lineStep h with ⟨rest, -, rfl⟩ | hline
  · exact lineOk_resetMachine _
  · exact hline.lineOk hok

/-! ### The order of the bits (R41) -/

/-- Bit `i` of the number that widths spell is 1 exactly when width `i` exceeds the threshold. -/
theorem numberOfWidths_testBit (thresh : Nat) (ws : List Nat) (i : Nat) :
    (numberOfWidths thresh ws).testBit i = decide (ws.getD i 0 > thresh) := by
  induction ws generalizing i with
  | nil => simp [numberOfWidths]
  | cons d ds ih =>
    cases i with
    | zero => by_cases h : d > thresh <;> simp [numberOfWidths, Nat.testBit_zero, h, Nat.add_mod]
    | succ i =>
      have hdiv : numberOfWidths thresh (d :: ds) / 2 = numberOfWidths thresh ds := by
        simp only [numberOfWidths]
        split <;> omega
      rw [Nat.testBit_succ, hdiv, ih, List.getD_cons_succ]

/-- Eight widths are a reply of the byte they spell (R61). -/
theorem decodesTo_byteOfWidths (thresh : Nat) {ws : List Nat} (h : ws.length = 8) :
    DecodesTo thresh ws (byteOfWidths thresh ws) := by
  refine ⟨h, fun i hi => ?_⟩
  rw [byteOfWidths, BitVec.getLsbD_ofNat, numberOfWidths_testBit, decide_eq_true hi, Bool.true_and, decide_eq_true_eq]

/-- The next eight answers are a reply of the byte the next receive gives (R94). -/
theorem answers_decodesTo_reply (s : State) : DecodesTo s.cfg.tThresh s.answers s.reply :=
  decodesTo_byteOfWidths _ (answersOf_length ..)

/-- The events of an operation stand after what was in the trace (R26). -/
theorem trace_getD_after (es fs : List Event) (d : Event) (i : Nat) :
    (es ++ fs).getD (es.length + 2 + i) d = fs.getD (2 + i) d := by
  rw [List.getD_append_right _ _ _ _ (by omega)]
  congr 1
  omega

/-- The event of data slot `i` of a sent byte (R60). -/
theorem sentEvents_getD (c : Config) (v : Byte) (d : Event) {i : Nat} (hi : i < 8) :
    (sentEvents c v).getD (2 + i) d = .drive (if v.getLsbD i = true then c.oneLevel else c.zeroLevel) c.tBit := by
  simp [sentEvents, Nat.add_comm 2 i, List.getElem?_append, hi]

/-- Measurement `i` of a receive (R61). -/
theorem receivedEvents_getD (c : Config) (ws : List Nat) (d : Event) {i : Nat} (hi : i < ws.length) :
    (receivedEvents c ws).getD (2 + i) d = .measure c.tTimeout (ws.getD i 0) := by
  simp [receivedEvents, Nat.add_comm 2 i, hi]

/-- Settles O35: the events of a byte stand after what was in the trace, a direction and one more event, and
measurement `i` spells bit `i`. -/
theorem leastSignificantBitFirstBothWays : Obligations.LeastSignificantBitFirstBothWays := by
  constructor
  · intro s v
    refine ⟨sendByte v s, rfl, fun i hi => ?_⟩
    rw [sendByte_eq, trace_getD_after, sentEvents_getD _ _ _ hi]
  · intro s
    obtain ⟨hlen, hbits⟩ := answers_decodesTo_reply s
    refine ⟨receiveReply s, rfl, fun i hi => ⟨s.answers.getD i 0, ?_, ?_⟩⟩
    · rw [receiveReply_eq, trace_getD_after, receivedEvents_getD _ _ _ (hlen ▸ hi)]
    · rw [receiveReply_eq]
      exact (hbits i hi).symm

/-! ### The order of the bytes (R42, R43) -/

/-- A cycle leaves the connection state and the input byte of every slot but the active one (R148). -/
theorem updateCycle_module_of_not_active {s : State} {k : SlotIx} (hk : k ≠ s.cursor) :
    ((updateCycle s).slot k).conn = (s.slot k).conn ∧ ((updateCycle s).slot k).lastIn = (s.slot k).lastIn := by
  obtain ⟨hconn, -, hin⟩ := popOutput_module (s.slot k)
  rw [updateCycle_slot, if_neg hk]
  exact ⟨hconn, hin⟩

/-- The trace of a cycle, byte by byte: the header, the outputs in index order, the checksum, the reply (R42). -/
theorem updateCycle_trace (s : State) :
    (updateCycle s).trace = s.trace ++ sentEvents s.cfg codeHeader
      ++ sentEvents s.cfg ((updateCycle s).out.get 0) ++ sentEvents s.cfg ((updateCycle s).out.get 1)
      ++ sentEvents s.cfg ((updateCycle s).out.get 2) ++ sentEvents s.cfg ((updateCycle s).out.get 3)
      ++ sentEvents s.cfg (updateCycle s).cks ++ receivedEvents s.cfg s.answers := by
  rw [updateCycle_eq]
  simp [cycle, cycleEvents, frameEvents, Quad.get]

/-- Settles O43: `UPDATE` is one cycle, whose checksum is of the bytes it sent and whose reply is the byte its
eight widths spell. -/
theorem cycleSendsItsBytesInOrder : Obligations.CycleSendsItsBytesInOrder := by
  intro s hp
  have hcks : (updateCycle s).cks = checksum (updateCycle s).out s.cursor := by rw [updateCycle_eq]
  have hrx : (updateCycle s).rx = s.reply := by rw [updateCycle_eq]
  refine ⟨_, exec_update hp, ?_⟩
  simp only [respond_trace, respond_out, respond_cks, respond_rx, slot_respond]
  exact ⟨updateCycle_trace s, hcks, hrx ▸ answers_decodesTo_reply s, fun _ => updateCycle_module_of_not_active⟩

/-- Settles O51: each cycle sends the head of the queue, and an undisturbed cycle leaves the tail. -/
theorem twoByteOutputKeepsItsOrder : Obligations.TwoByteOutputKeepsItsOrder := by
  intro s k a b r1 r2 hq
  have queueAfterFirst (h : k = s.cursor → ¬ (s.slot k).disturbedBy r1) :
      ((updateCycle (supplyReply r1 s)).slot k).pend = [b] := by
    rw [(updateCycle_undisturbed h).1, hq, List.tail_cons]
  simp only [runCycles_cons, runCycles_nil]
  refine ⟨?_, fun h => ?_, fun h => ?_⟩
  · rw [updateCycle_out, slot_supplyReply, popOutput_cons hq]
  · obtain ⟨h1, -⟩ := undisturbed_cons h
    rw [updateCycle_out, slot_supplyReply, popOutput_cons (queueAfterFirst h1)]
  · obtain ⟨h1, hrest⟩ := undisturbed_cons h
    obtain ⟨h2, -⟩ := undisturbed_cons hrest
    obtain ⟨hpend, hcached⟩ := updateCycle_undisturbed h2
    rw [queueAfterFirst h1] at hpend
    rw [popOutput_cons (queueAfterFirst h1)] at hcached
    exact ⟨hpend, hcached⟩

end Sys2Proof.Machine
end

section
/-! Proofs of the statements about the encodings (`30_encoding.md`): the decoder reads back what the encoder
writes, and the rows that are words of the line do what their bytes do on it. -/

namespace Sys2Proof.Machine

/-! ### Host command words (R70, R71) -/

/-- The host opcode map with the word's fields given one by one (R71). -/
def hostRow (op k : Nat) (two : Bool) (b1 b0 : Byte) : Instr :=
  match op with
  | 0x0 => .reservedOp0
  | 0x1 => .update
  | 0x2 => .setPending k b0 (if two then some b1 else none)
  | 0x3 => .getConnected k
  | 0x4 => .getJustConnected k
  | 0x5 => .getType k
  | 0x6 => .getInput k
  | 0x7 => .reservedOp7
  | 0x8 => .reservedOp8
  | 0x9 => .reservedOp9
  | 0xA => .reservedOpA
  | 0xB => .reservedOpB
  | 0xC => .reservedOpC
  | 0xD => .reservedOpD
  | 0xE => .reservedOpE
  | _ => .reservedOpF

/-- The decoder looks at bit 17, and then at the opcode map (R72 e). -/
theorem decodeHost_eq (w : BitVec 24) :
    decodeHost w =
      if w.getLsbD 17 then .reservedZeroBit
      else hostRow (w.extractLsb' 20 4).toNat (w.extractLsb' 18 2).toNat (w.getLsbD 16)
        (w.extractLsb' 8 8) (w.extractLsb' 0 8) := rfl

theorem hostRow_ne_reservedZeroBit (op k : Nat) (two : Bool) (b1 b0 : Byte) :
    hostRow op k two b1 b0 ≠ .reservedZeroBit := by
  unfold hostRow
  split <;> exact Instr.noConfusion

theorem decode_host_toNat (cfg : Config) (w : BitVec 24) : decode cfg ⟨.host, w.toNat⟩ = .ok (decodeHost w) := by
  simp only [decode, BitVec.ofNat_toNat, BitVec.setWidth_eq]

/-- Settles O3: with bit 17 clear the word is a row of the opcode map, and none of those is the reserved one. -/
theorem onlyBitSeventeenMakesZeroBitReserved : Obligations.OnlyBitSeventeenMakesZeroBitReserved := by
  intro cfg w
  have hbit : w.getLsbD 17 = decide (w.toNat / 2 ^ 17 % 2 = 1) := Nat.testBit_eq_decide_div_mod_eq
  rw [decode_host_toNat, decodeHost_eq, hbit]
  by_cases h : w.toNat / 2 ^ 17 % 2 = 1
  · simp only [h, decide_true, if_true]
  · simp only [h, decide_false, Bool.false_eq_true, if_false, Except.ok.injEq, hostRow_ne_reservedZeroBit]

/-- A number with bit 17 clear is read field by field (R70). -/
theorem decode_host_number (cfg : Config) {w : Nat} (hw : w < 2 ^ 24) (h17 : w / 2 ^ 17 % 2 = 0) :
    decode cfg ⟨.host, w⟩ =
      .ok (hostRow (w / 2 ^ 20) (w / 2 ^ 18 % 4) (decide (w / 2 ^ 16 % 2 = 1))
        (BitVec.ofNat 8 (w / 256 % 256)) (BitVec.ofNat 8 (w % 256))) := by
  have hofNat : (BitVec.ofNat 24 w).toNat = w := Nat.mod_eq_of_lt hw
  have hbit (i : Nat) : (BitVec.ofNat 24 w).getLsbD i = decide (w / 2 ^ i % 2 = 1) := by
    rw [BitVec.getLsbD, hofNat]
    exact Nat.testBit_eq_decide_div_mod_eq
  have hfield (start len : Nat) : (BitVec.ofNat 24 w).extractLsb' start len = BitVec.ofNat len (w / 2 ^ start) := by
    rw [BitVec.extractLsb', hofNat, Nat.shiftRight_eq_div_pow]
  have hop : (BitVec.ofNat 4 (w / 2 ^ 20)).toNat = w / 2 ^ 20 := Nat.mod_eq_of_lt (by omega)
  have hbyte (n : Nat) : BitVec.ofNat 8 (n % 256) = BitVec.ofNat 8 n := by
    apply BitVec.eq_of_toNat_eq
    simp
  rw [decode, decodeHost_eq, hbit, hbit, hfield, hfield, hfield, hfield, hop, h17, hbyte, hbyte, pow_zero,
    Nat.div_one]
  rfl

/-- Settles O4: the word is read field by field, and the opcode picks the row. -/
theorem hostOpcodeMapReadsEveryField : Obligations.HostOpcodeMapReadsEveryField := by
  intro cfg w hw h17
  simp only [decode_host_number cfg hw h17]
  refine ⟨?_, ?_, fun hop htwo => ?_, fun hop htwo => ?_, ?_, ?_, ?_, ?_, ?_, ?_, ?_, ?_, ?_, ?_, ?_, ?_, ?_⟩
  case refine_3 | refine_4 => rw [hop, htwo]; rfl
  all_goals
    intro hop
    rw [hop]
    rfl

/-! ### The bytes with fields, as numbers (R63, R66) -/

theorem ledFirstByte_toNat (green red : BitVec 3) :
    (ledFirstByte green red).toNat = green.toNat * 8 + red.toNat := by
  revert green red
  decide

theorem ledSecondByte_toNat (fade blue : BitVec 3) :
    (ledSecondByte fade blue).toNat = 0x40 + fade.toNat * 8 + blue.toNat := by
  revert fade blue
  decide

theorem checksumBits_toNat (sum : BitVec 4) (k : SlotIx) :
    (checksumBits sum k).toNat = sum.toNat * 16 + k.val := by
  revert sum k
  decide

/-! ### The word of each row reads back as the row -/

/-- A command word with a clear bit 17 is read field by field (R70). -/
theorem decode_hostCode (c : Config) (op : BitVec 4) {k : Nat} (two : Bool) (b1 b0 : Byte)
    (hk : slotOk k = true) :
    decode c (hostCode op k two b1 b0) = .ok (hostRow op.toNat k two b1 b0) := by
  obtain ⟨hop, hslot, hzero, htwo, hb1, hb0⟩ := hostWord_fields op k two b1 b0
  have hval : (BitVec.ofNat 2 k).toNat = k := Nat.mod_eq_of_lt (of_decide_eq_true hk)
  rw [hostCode, decode_host_toNat, decodeHost_eq, hop, hslot, hzero, htwo, hb1, hb0, hval]
  rfl

/-- The word of a `SET_PENDING` of one or of two bytes (R120). -/
theorem decode_pendingCode (c : Config) {k : Nat} (b0 : Byte) (b1 : Option Byte) (hk : slotOk k = true) :
    decode c (pendingCode k b0 b1) = .ok (.setPending k b0 b1) := by
  cases b1 with
  | none => exact decode_hostCode c 0x2 false 0 b0 hk
  | some b1 => exact decode_hostCode c 0x2 true b1 b0 hk

/-- The eleven slots of a sent byte (R60). -/
theorem decode_sentLine (c : Config) (v : Byte) :
    decode c ⟨.sentLine, (0#1 ++ v.reverse ++ 3#2).toNat⟩ = .ok (.lineSentByte v) := by
  obtain ⟨hstart, hstop, hdata⟩ := sentWord_fields v
  simp only [decode, BitVec.ofNat_toNat, BitVec.setWidth_eq, decodeSentLine, hstart, hstop, hdata, and_self, if_true]

/-- The eight bit decisions of a received byte (R61). -/
theorem decode_receivedLine (c : Config) (v : Byte) :
    decode c ⟨.receivedLine, v.reverse.toNat⟩ = .ok (.lineReceivedByte v) := by
  simp only [decode, BitVec.ofNat_toNat, BitVec.setWidth_eq, byte_reverse_reverse]

/-- The seven bytes of a cycle (R62). -/
theorem decode_cycle (c : Config) (o : Quad Byte) (sum : BitVec 4) (k : SlotIx) (r : Byte) :
    decode c ⟨.cycle, (codeHeader ++ o.q0 ++ o.q1 ++ o.q2 ++ o.q3 ++ checksumBits sum k ++ r).toNat⟩ =
      .ok (.frame o sum k r) := by
  obtain ⟨hhead, h0, h1, h2, h3, hcks, hreply⟩ :=
    frameWord_fields codeHeader o.q0 o.q1 o.q2 o.q3 (checksumBits sum k) r
  obtain ⟨hzero, hsum, hslot⟩ := checksumBits_fields sum k
  simp only [decode, BitVec.ofNat_toNat, BitVec.setWidth_eq, decodeFrame, hhead, h0, h1, h2, h3, hcks, hreply, hzero,
    hsum, hslot, if_true]

/-- The checksum byte (R63). -/
theorem decode_checksumBits (c : Config) (sum : BitVec 4) (k : SlotIx) :
    decode c (byteCode .checksum (checksumBits sum k)) = .ok (.checksumByte sum k) := by
  obtain ⟨hzero, hsum, hslot⟩ := checksumBits_fields sum k
  simp only [decode, byteCode, BitVec.ofNat_toNat, BitVec.setWidth_eq, decodeChecksum, hzero, hsum, hslot, if_true]

/-- A byte below the fixed output codes is none of them, so the slot's type decides its reading (R64, R67). -/
theorem ne_outputCode {b : Byte} (h : b.toNat < 0xFA) :
    b ≠ codeNoModule ∧ b ≠ codeTypeRequest ∧ b ≠ codeNil ∧ b ≠ codeServoLimitMode := by
  refine ⟨?_, ?_, ?_, ?_⟩ <;>
  · rintro rfl
    exact absurd h (by decide)

/-- A byte in the servo's range (R65, R67). -/
theorem decode_servoByte (c : Config) {p : Byte} (hp : servoByteOk p = true) :
    decode c (byteCode (.output .servo) p) = .ok (.servoPositionByte p) := by
  have hlt : p.toNat < 0xFA := by
    simp only [servoByteOk, Bool.and_eq_true, decide_eq_true_eq] at hp
    omega
  obtain ⟨hnm, htr, hnil, hlim⟩ := ne_outputCode hlt
  simp only [decode, byteCode, BitVec.ofNat_toNat, BitVec.setWidth_eq, decodeOutput, hnm, htr, hnil, hlim, hp,
    if_false, if_true]

/-- The first byte of an LED update (R66). -/
theorem decode_ledFirstByte (c : Config) (green red : BitVec 3) :
    decode c (byteCode (.output .led) (ledFirstByte green red)) = .ok (.ledByte1 green red) := by
  have hlt : (ledFirstByte green red).toNat < 0xFA := by
    have := ledFirstByte_toNat green red
    omega
  obtain ⟨hnm, htr, hnil, hlim⟩ := ne_outputCode hlt
  obtain ⟨hmark, hgreen, hred⟩ := ledFirstByte_fields green red
  simp only [decode, byteCode, BitVec.ofNat_toNat, BitVec.setWidth_eq, decodeOutput, hnm, htr, hnil, hlim, hmark,
    hgreen, hred, if_false, if_true]

/-- The second byte of an LED update (R66). -/
theorem decode_ledSecondByte (c : Config) (fade blue : BitVec 3) :
    decode c (byteCode (.output .led) (ledSecondByte fade blue)) = .ok (.ledByte2 fade blue) := by
  have hlt : (ledSecondByte fade blue).toNat < 0xFA := by
    have := ledSecondByte_toNat fade blue
    omega
  obtain ⟨hnm, htr, hnil, hlim⟩ := ne_outputCode hlt
  obtain ⟨hmark, hfade, hblue⟩ := ledSecondByte_fields fade blue
  have hone : (1 : BitVec 2) ≠ 0 := by decide
  simp only [decode, byteCode, BitVec.ofNat_toNat, BitVec.setWidth_eq, decodeOutput, hnm, htr, hnil, hlim, hmark,
    hfade, hblue, hone, if_false, if_true]

/-- A byte other than 0x00 from a TypeKnown slot (R68, R147). -/
theorem decode_recordedInput (c : Config) {v : Byte} (hv : recordedOk v = true) :
    decode c (byteCode (.reply .typeKnown codeNoModule) v) = .ok (.recordedInput v) := by
  have hne : v ≠ codeDisconnect := by simpa [recordedOk, codeDisconnect] using hv
  simp only [decode, byteCode, BitVec.ofNat_toNat, BitVec.setWidth_eq, decodeReply, hne, if_false]

/-- A well-formed row that is not internal has a word, and the word decodes to the row's core instruction
(R71, R75). -/
theorem decode_encode (c : Config) {i : Instr} (hwf : i.wellFormed = true) (hi : i.isInternal = false) :
    ∃ code, encode c i = some code ∧ decode c code = .ok (i.core c) := by
  match i, hwf with
  | .update, _ => exact ⟨_, rfl, decode_hostCode c 0x1 false 0 0 rfl⟩
  | .reservedOp0, _ => exact ⟨_, rfl, decode_hostCode c 0x0 false 0 0 rfl⟩
  | .reservedOp7, _ => exact ⟨_, rfl, decode_hostCode c 0x7 false 0 0 rfl⟩
  | .reservedOp8, _ => exact ⟨_, rfl, decode_hostCode c 0x8 false 0 0 rfl⟩
  | .reservedOp9, _ => exact ⟨_, rfl, decode_hostCode c 0x9 false 0 0 rfl⟩
  | .reservedOpA, _ => exact ⟨_, rfl, decode_hostCode c 0xA false 0 0 rfl⟩
  | .reservedOpB, _ => exact ⟨_, rfl, decode_hostCode c 0xB false 0 0 rfl⟩
  | .reservedOpC, _ => exact ⟨_, rfl, decode_hostCode c 0xC false 0 0 rfl⟩
  | .reservedOpD, _ => exact ⟨_, rfl, decode_hostCode c 0xD false 0 0 rfl⟩
  | .reservedOpE, _ => exact ⟨_, rfl, decode_hostCode c 0xE false 0 0 rfl⟩
  | .reservedOpF, _ => exact ⟨_, rfl, decode_hostCode c 0xF false 0 0 rfl⟩
  | .reservedZeroBit, _ => exact ⟨_, rfl, decode_host_toNat c 0x020000⟩
  | .getConnected _, hk => exact ⟨_, if_pos hk, decode_hostCode c 0x3 false 0 0 hk⟩
  | .getJustConnected _, hk => exact ⟨_, if_pos hk, decode_hostCode c 0x4 false 0 0 hk⟩
  | .getType _, hk => exact ⟨_, if_pos hk, decode_hostCode c 0x5 false 0 0 hk⟩
  | .getInput _, hk => exact ⟨_, if_pos hk, decode_hostCode c 0x6 false 0 0 hk⟩
  | .setPending .., hk | .servoLim _, hk | .servoColor .., hk | .ledColor .., hk =>
    exact ⟨_, if_pos hk, decode_pendingCode c _ _ hk⟩
  | .servoPos .., hk => exact ⟨_, if_pos hk, decode_pendingCode c _ _ (Bool.and_eq_true_iff.mp hk).2⟩
  | .lineSentByte v, _ => exact ⟨_, rfl, decode_sentLine c v⟩
  | .lineReceivedByte v, _ => exact ⟨_, rfl, decode_receivedLine c v⟩
  | .frame o sum k r, _ => exact ⟨_, rfl, decode_cycle c o sum k r⟩
  | .checksumByte sum k, _ => exact ⟨_, rfl, decode_checksumBits c sum k⟩
  | .servoPositionByte _, hp => exact ⟨_, rfl, decode_servoByte c hp⟩
  | .ledByte1 green red, _ => exact ⟨_, rfl, decode_ledFirstByte c green red⟩
  | .ledByte2 fade blue, _ => exact ⟨_, rfl, decode_ledSecondByte c fade blue⟩
  | .recordedInput _, hv => exact ⟨_, rfl, decode_recordedInput c hv⟩
  | .header, _ | .noModule, _ | .discover, _ | .typeRequest, _ | .disconnect, _ | .nilByte, _
  | .servoLimitMode, _ | .typeServo, _ | .typeLed, _ => exact ⟨_, rfl, rfl⟩

/-- An internal row has no word (R71). -/
theorem encode_internal (c : Config) {i : Instr} (hi : i.isInternal = true) : encode c i = none := by
  match i, hi with
  | .sendByte _, _ | .receiveByte, _ | .compute .., _ | .setPendingOutput .., _ | .nextOutputByte _, _
  | .recordInput .., _ | .dsmStep .., _ | .reset, _ => rfl

/-- Settles O1: an internal row has no word, and the word of any other row reads back. -/
theorem decodeOfEncodeIsTheCoreInstruction : Obligations.DecodeOfEncodeIsTheCoreInstruction := by
  intro c i code hwf henc
  cases hi : i.isInternal with
  | true => cases (encode_internal c hi).symm.trans henc
  | false =>
    obtain ⟨w, hw, hdec⟩ := decode_encode c hwf hi
    cases hw.symm.trans henc
    exact hdec

/-- Settles O2: every row that is not internal has a word. -/
theorem exactlyInternalRowsHaveNoWord : Obligations.ExactlyInternalRowsHaveNoWord := by
  intro c i hwf
  refine ⟨fun hnone => ?_, encode_internal c⟩
  cases hi : i.isInternal with
  | true => rfl
  | false =>
    obtain ⟨w, hw, -⟩ := decode_encode c hwf hi
    cases hnone.symm.trans hw

/-- Settles O5: each word is run through the decoder. -/
theorem writtenOutWordsDecode : Obligations.WrittenOutWordsDecode := by
  unfold Obligations.WrittenOutWordsDecode
  decide

/-! ### Reserved command words (R72 e) -/

/-- Settles O21: each reserved row ignores its word, which an idle machine may take. -/
theorem reservedWordsAreIgnored : Obligations.ReservedWordsAreIgnored := by
  intro s i hp hi
  have hexec : exec i s = ignoreReserved s := by
    simp only [List.mem_cons, List.not_mem_nil, or_false] at hi
    rcases hi with rfl | rfl | rfl | rfl | rfl | rfl | rfl | rfl | rfl | rfl | rfl <;> rfl
  rw [hexec]
  exact asHost_idle hp _

/-! ### Rows that are bytes sent on the line (R60, R63 to R66) -/

/-- Settles O31: each of these rows is one `sendByte` of its byte. -/
theorem sendingOperationsDriveTheirByte : Obligations.SendingOperationsDriveTheirByte := by
  intro s i v hi
  have hexec : exec i s = .next (sendByte v s) := by
    rcases hi with rfl | rfl | rfl | ⟨rfl, rfl⟩ | ⟨rfl, rfl⟩ | ⟨rfl, rfl⟩ | ⟨rfl, rfl⟩ | ⟨rfl, rfl⟩ | hfields
    iterate 8 rfl
    rcases hfields with ⟨sum, k, rfl, hv⟩ | ⟨green, red, rfl, hv⟩ | ⟨fade, blue, rfl, hv⟩
    · obtain rfl : v = checksumBits sum k := BitVec.eq_of_toNat_eq (hv.trans (checksumBits_toNat sum k).symm)
      rfl
    · obtain rfl : v = ledFirstByte green red := BitVec.eq_of_toNat_eq (hv.trans (ledFirstByte_toNat green red).symm)
      rfl
    · obtain rfl : v = ledSecondByte fade blue := BitVec.eq_of_toNat_eq (hv.trans (ledSecondByte_toNat fade blue).symm)
      rfl
  refine ⟨_, hexec, ?_⟩
  rw [sendByte_eq]
  simp only [State.visible, sentEvents, List.append_assoc]
  rfl

/-! ### Rows that are bytes received on the line (R61, R64) -/

/-- The widths given for a byte are a reply of that byte (R61, R97). -/
theorem widthsOfByte_decodesTo (thresh n : Nat) (v : Byte) : DecodesTo thresh (widthsOfByte thresh n v) v := by
  have h := decodesTo_byteOfWidths thresh (widthsOfByte_length thresh n v)
  rwa [byteOfWidths_widthsOfByte] at h

/-- Settles O33: the receive's byte is the one its next eight answers spell. -/
theorem receiveByteReadsEightWidths : Obligations.ReceiveByteReadsEightWidths := by
  intro s
  obtain ⟨hlen, hbits⟩ := answers_decodesTo_reply s
  refine ⟨receiveReply s, rfl, hlen, fun i hi => ?_, ?_⟩
  · rw [receiveReply_eq]
    exact (hbits i hi).symm
  · rw [receiveReply_eq]
    simp only [State.visible, receivedEvents, List.append_assoc]

/-- Settles O34: the row receives the widths given for its byte. -/
theorem lineReceivedByteIsReceived : Obligations.LineReceivedByteIsReceived := by
  intro s v
  refine ⟨receiveReply (supplyReply v s), _, rfl, widthsOfByte_decodesTo s.cfg.tThresh s.draws v, ?_⟩
  rw [receiveReply_supplyReply]
  rfl

/-- Settles O30: each received code is one `replyByte`, which ends in the discovery step of the active slot. -/
theorem receivedCodesRunTheDiscoveryStep : Obligations.ReceivedCodesRunTheDiscoveryStep := by
  intro s i b hi
  have hexec : exec i s = .next (replyByte b s) := by
    rcases hi with ⟨rfl, rfl⟩ | ⟨rfl, rfl⟩ | ⟨rfl, rfl⟩ | ⟨rfl, rfl⟩ | rfl <;> rfl
  refine ⟨_, _, _, hexec, exec_dsmStep .., widthsOfByte_decodesTo s.cfg.tThresh s.draws b, ?_⟩
  rw [replyByte_eq]
  rfl

/-! ### A frame (R62) -/

/-- Everything format F does: six bytes go out, and the reply comes in as its widths. -/
theorem execFrame_eq (o : Quad Byte) (sum : BitVec 4) (slot : SlotIx) (reply : Byte) (s : State) :
    execFrame o sum slot reply s =
      .next { s with
        out := o
        cks := checksumBits sum slot
        rx := reply
        dir := .input
        lvl := s.cfg.stopLevel
        shift := reply
        bitIx := 7
        timer := (widthsOfByte s.cfg.tThresh s.draws reply).getLastD s.cfg.tSettle
        draws := s.draws + 8
        trace := s.trace ++ cycleEvents s.cfg [codeHeader, o.q0, o.q1, o.q2, o.q3, checksumBits sum slot]
          (widthsOfByte s.cfg.tThresh s.draws reply) } := by
  simp [execFrame, sendHeader, sendByte_eq, receiveReply_supplyReply, cycleEvents, frameEvents]

/-- Settles O44: the frame's bytes go out one after the other, and its reply comes in. -/
theorem framePutsItsBytesOnTheLine : Obligations.FramePutsItsBytesOnTheLine := by
  intro s o sum k r
  refine ⟨_, _, _, execFrame_eq o sum k r s, checksumBits_toNat sum k,
    widthsOfByte_decodesTo s.cfg.tThresh s.draws r, ?_⟩
  simp only [State.visible, cycleEvents, frameEvents, List.append_assoc]
  rfl

/-! ### Line words that are no row (R72) -/

/-- An idle step absorbs or refuses a word that is no row. -/
theorem step_absorbs {s : State} {c : Code} {rest : List Input} {e : DecodeError} (hp : s.phase = .idle)
    (hdec : decode s.cfg c = .error e) (hin : s.inputs = .word c :: rest) :
    step s = absorbWord c e { s with inputs := rest } := by
  simp only [step, hin, busy_of_idle hp, hdec, Bool.false_eq_true, if_false]

/-- A word that is neither an output byte nor a reply is refused by name. -/
theorem absorbWord_refused {c : Code} (e : DecodeError) (s : State) (hout : ∀ m, c.fmt ≠ .output m)
    (hreply : ∀ conn sent, c.fmt ≠ .reply conn sent) : absorbWord c e s = .refused (.notARow e) := by
  unfold absorbWord
  split
  · next hf => exact absurd hf (hout _)
  · next hf => exact absurd hf (hreply _ _)
  all_goals rfl

/-- Settles O11: what an idle step does with a word that is no row, by its format. -/
theorem unmatchedLineBytesAreAbsorbed : Obligations.UnmatchedLineBytesAreAbsorbed := by
  intro s m c sent b code rest e hp
  have hbyte : BitVec.ofNat 8 b.toNat = b := by simp
  refine ⟨fun hdec hin => ?_, fun hdec hin => ?_, fun hout hreply hdec hin => ?_⟩
  · refine ⟨_, step_absorbs hp hdec hin, ?_⟩
    rw [hbyte, sendByte_eq]
    exact ⟨rfl, rfl, rfl, rfl⟩
  · refine ⟨_, _, step_absorbs hp hdec hin, exec_dsmStep .., ?_⟩
    rw [hbyte, replyByte_eq]
    exact ⟨rfl, rfl, rfl, rfl⟩
  · rw [step_absorbs hp hdec hin]
    exact absorbWord_refused e _ hout hreply

end Sys2Proof.Machine
end

section
/-! Proofs of the statements about the transport (`40_transport.md`): the direction of the line and the bytes
sent in a cycle while only the host acts, the trace of a sent byte, a pulse measured on a waveform, and what of
a reply reaches the state. -/

namespace Sys2Proof.Machine

/-! ### The phases of a cycle (R22, R101, R16 a) -/

/-- The byte in the frame register of slot `k` is the slot's `cached` byte (R16 a). -/
def SentCached (s : State) (k : SlotIx) : Prop := s.out.get k = (s.slot k).cached

/-- A slot's output makes it so for that slot, and leaves the others (R122). -/
theorem sendOutput_sentCached {s : State} {j k : SlotIx} (h : k ≠ j → SentCached s k) :
    SentCached (sendOutput j s) k := by
  simp only [SentCached, sendOutput_eq, State.slot, Quad.get_set]
  split
  · exact (popOutput_cached _).symm
  · next hk => exact h hk

/-- A slot's output adds that slot to those whose byte is on the line (R161). -/
theorem sendOutput_sentSlots {s : State} {j : SlotIx} {sent sent' : List SlotIx}
    (hadd : ∀ k ∈ sent', k ≠ j → k ∈ sent) (h : ∀ k ∈ sent, SentCached s k) :
    ∀ k ∈ sent', SentCached (sendOutput j s) k :=
  fun k hk => sendOutput_sentCached fun hne => h k (hadd k hk hne)

/-- An operation that writes neither the frame registers nor the register file. -/
theorem SentCached.of_eq {s t : State} {k : SlotIx} (hout : t.out = s.out) (hslots : t.slots = s.slots)
    (h : SentCached s k) : SentCached t k := by
  rw [SentCached, State.slot, hout, hslots]
  exact h

/-- The work of a phase keeps sent and cached bytes equal for the slots of the next phase (R160 step 2). -/
theorem phaseWork_sentCached {p : Phase} {s : State} (h : ∀ k ∈ sentSlots p, SentCached s k) :
    ∀ k ∈ sentSlots (nextPhase p), SentCached (phaseWork p s) k := by
  cases p with
  | idle | hdr | dispatch => exact fun k hk => absurd hk List.not_mem_nil
  | out0 | out1 | out2 | out3 => exact sendOutput_sentSlots (by decide) h
  | cks =>
    refine fun k hk => (h k hk).of_eq ?_ ?_ <;> simp only [phaseWork, sendChecksum, sendByte_eq]
  | rx =>
    refine fun k hk => (h k hk).of_eq ?_ ?_ <;> simp only [phaseWork, receiveReply_eq]

/-- The work of a phase leaves the line in the direction of the next phase (R101). -/
theorem phaseWork_dir {p : Phase} {s : State} (h : s.dir = phaseDir p) :
    (phaseWork p s).dir = phaseDir (nextPhase p) := by
  cases p with
  | idle | dispatch => exact h
  | hdr => simp only [phaseWork, sendHeader, sendByte_eq, nextPhase, phaseDir]
  | out0 | out1 | out2 | out3 => simp only [phaseWork, sendOutput_eq, nextPhase, phaseDir]
  | cks => simp only [phaseWork, sendChecksum, sendByte_eq, nextPhase, phaseDir]
  | rx => simp only [phaseWork, receiveReply_eq, nextPhase, phaseDir]

theorem HostOnly.of_inputs {s t : State} (h : HostOnly s) (hin : t.inputs = s.inputs) : HostOnly t := by
  rw [HostOnly, hin]
  exact h

/-- A tick takes the bus from its phase to the next. -/
theorem tick_busOk {s : State} (h : BusOk s) : BusOk (tick s) := by
  obtain ⟨hhost, hdir, hsent⟩ := h
  have htick : tick s = enterPhase (nextPhase s.phase) (phaseWork s.phase s) := tick_enterPhase s.phase s
  rw [htick]
  exact ⟨hhost.of_inputs (phaseWork_inputs s.phase s), phaseWork_dir hdir, phaseWork_sentCached hsent⟩

/-! ### The host's operations, between two cycles (R44, R101) -/

/-- Before the first byte of a cycle is sent the line is an input, and no slot has been sent its byte. -/
theorem busOk_of_input {s : State} (hhost : HostOnly s) (hphase : s.phase = .idle ∨ s.phase = .hdr)
    (hdir : s.dir = .input) : BusOk s := by
  refine ⟨hhost, ?_⟩
  rcases hphase with hp | hp <;> rw [hp] <;> exact ⟨hdir, fun k hk => absurd hk List.not_mem_nil⟩

/-- What a host operation keeps of the bus: the items still to come, the phase, and an input line. -/
structure KeepsIdleBus (s t : State) : Prop where
  inputs : t.inputs = s.inputs
  phase : t.phase = s.phase
  dir : s.dir = .input → t.dir = .input

theorem enqueue_keepsIdleBus {k : Nat} {q : List Byte} {s t : State} (h : enqueue k q s = .next t) :
    KeepsIdleBus s t := by
  obtain ⟨-, j, -, rfl⟩ := enqueue_next h
  exact ⟨rfl, rfl, id⟩

theorem query_keepsIdleBus {k : Nat} {a : Slot → Byte} {f : Slot → Slot} {s t : State}
    (h : query k a f s = .next t) : KeepsIdleBus s t := by
  obtain ⟨-, j, -, rfl⟩ := query_next h
  exact ⟨rfl, rfl, id⟩

theorem ignoreReserved_keepsIdleBus {s t : State} (h : ignoreReserved s = .next t) : KeepsIdleBus s t := by
  obtain ⟨-, rfl⟩ := ignoreReserved_next h
  exact ⟨rfl, rfl, id⟩

/-- A whole cycle ends with the receive, which makes the line an input (R94, R160 step 4). -/
theorem execUpdate_keepsIdleBus {s t : State} (h : execUpdate s = .next t) : KeepsIdleBus s t := by
  obtain ⟨-, rfl⟩ := execUpdate_next h
  constructor
  case inputs => rw [respond_inputs, updateCycle_inputs]
  case phase => rw [respond_phase, updateCycle_phase]
  case dir => exact fun _ => by rw [respond_dir, updateCycle_eq]

theorem exec_host_keepsIdleBus {i : Instr} {s t : State} (hi : i.isHost = true) (h : exec i s = .next t) :
    KeepsIdleBus s t := by
  match i, hi, h with
  | .update, _, h => exact execUpdate_keepsIdleBus h
  | .servoPos _ _, _, h => exact enqueue_keepsIdleBus (withAngle_next (asHost_next h))
  | .setPending _ _ _, _, h | .servoLim _, _, h | .servoColor _ _, _, h | .ledColor _ _ _ _ _, _, h =>
    exact enqueue_keepsIdleBus h
  | .getConnected k, _, (h : execGetConnected k s = .next t)
  | .getJustConnected k, _, (h : execGetJustConnected k s = .next t)
  | .getType k, _, (h : execGetType k s = .next t)
  | .getInput k, _, (h : execGetInput k s = .next t) => exact query_keepsIdleBus h
  | .reservedOp0, _, h | .reservedOp7, _, h | .reservedOp8, _, h | .reservedOp9, _, h | .reservedOpA, _, h
  | .reservedOpB, _, h | .reservedOpC, _, h | .reservedOpD, _, h | .reservedOpE, _, h | .reservedOpF, _, h
  | .reservedZeroBit, _, h => exact ignoreReserved_keepsIdleBus h

/-- Every command word is a host operation (R71). -/
theorem decodeHost_isHost (w : BitVec 24) : (decodeHost w).isHost = true := by
  rw [decodeHost_eq]
  split
  · rfl
  · unfold hostRow
    split <;> rfl

/-- A word of format H always decodes, and to a host operation (R71, R72 e). -/
theorem decode_of_host (cfg : Config) {c : Code} (hc : c.fmt = .host) :
    ∃ i, decode cfg c = .ok i ∧ i.isHost = true := by
  refine ⟨decodeHost (BitVec.ofNat 24 c.bits), ?_, decodeHost_isHost _⟩
  simp only [decode, hc]

/-! ### Every step (R40, R101) -/

/-- The first of the host's items is the host's, and so are the rest. -/
theorem HostOnly.head_tail {s : State} {item : Input} {rest : List Input} (h : HostOnly s)
    (hin : s.inputs = item :: rest) : item.fromHost = true ∧ HostOnly { s with inputs := rest } := by
  rw [HostOnly, hin, List.all_cons, Bool.and_eq_true] at h
  exact h

theorem BusOk.dir_of_idle {s : State} (h : BusOk s) (hp : s.phase = .idle) : s.dir = .input := by
  obtain ⟨-, hdir, -⟩ := h
  rw [hdir, hp]
  rfl

/-- Settles O56: a tick goes from the phase's direction and sent bytes to the next phase's, and every other step
while only the host acts ends before the first byte of a cycle, with the line an input. -/
theorem everyStepKeepsTheBus : Obligations.EveryStepKeepsTheBus := by
  intro s t hbus h
  have ⟨hhost, _, _⟩ := hbus
  rcases step_cases h with ⟨rest, hin, rfl⟩ | ⟨-, -, rfl⟩ | ⟨rest, hin, hp, rfl⟩ | ⟨c, rest, i, hin, hp, hdec, hexec⟩ |
    ⟨c, rest, e, hin, hp, hdec, -⟩
  · obtain ⟨-, hrest⟩ := hhost.head_tail hin
    exact busOk_of_input (hrest.of_inputs rfl) (.inl rfl) rfl
  · exact tick_busOk hbus
  · obtain ⟨-, hrest⟩ := hhost.head_tail hin
    have hdir := hbus.dir_of_idle hp
    exact busOk_of_input (hrest.of_inputs rfl) (.inr rfl) hdir
  · obtain ⟨hc, hrest⟩ := hhost.head_tail hin
    obtain ⟨j, hj, hhostOp⟩ := decode_of_host s.cfg (beq_iff_eq.mp hc)
    cases hj.symm.trans hdec
    have hkeep := exec_host_keepsIdleBus hhostOp hexec
    have hdir := hbus.dir_of_idle hp
    exact busOk_of_input (hrest.of_inputs hkeep.inputs) (.inl (hkeep.phase.trans hp)) (hkeep.dir hdir)
  · obtain ⟨hc, -⟩ := hhost.head_tail hin
    obtain ⟨j, hj, -⟩ := decode_of_host s.cfg (beq_iff_eq.mp hc)
    cases hj.symm.trans hdec

/-! ### The trace of a sent byte (R93) -/

theorem bitLevel_injective {c : Config} (hc : c.oneLevel ≠ c.zeroLevel) {b b' : Bool}
    (h : (if b = true then c.oneLevel else c.zeroLevel) = if b' = true then c.oneLevel else c.zeroLevel) : b = b' := by
  match b, b', h with
  | true, true, _ | false, false, _ => rfl
  | true, false, h => exact absurd h hc
  | false, true, h => exact absurd h.symm hc

/-- With different levels for 1 and 0, the level of data slot `i` tells bit `i`. -/
theorem sentEvents_injective {c : Config} (hc : c.oneLevel ≠ c.zeroLevel) {v v' : Byte}
    (h : sentEvents c v = sentEvents c v') : v = v' := by
  apply BitVec.eq_of_getLsbD_eq
  intro i hi
  have hslot := sentEvents_getD c v (.dir .output) hi
  rw [h, sentEvents_getD c v' _ hi, Event.drive.injEq] at hslot
  obtain ⟨hlevel, -⟩ := hslot
  exact (bitLevel_injective hc hlevel).symm

/-- Settles O32: the two traces begin alike, so what the two sends add is the same. -/
theorem traceDeterminesTheSentByte : Obligations.TraceDeterminesTheSentByte := by
  intro s t t' v v' hc h h' htrace
  obtain rfl : sendByte v s = t := Host.Outcome.next.inj h
  obtain rfl : sendByte v' s = t' := Host.Outcome.next.inj h'
  rw [sendByte_eq, sendByte_eq] at htrace
  exact sentEvents_injective hc (List.append_cancel_left htrace)

/-! ### A pulse measured on a waveform (R98) -/

/-- How many microseconds of the pulse have been counted. -/
def MeasureStage.counted : MeasureStage → Nat
  | .waitLow | .waitHigh => 0
  | .counting n => n

/-- A measurement that has counted no more than has passed never answers a width above its timeout: it counts
one microsecond at a time and answers 0 once the timeout has passed. -/
theorem measureWave_le {t d : Nat} {stage : MeasureStage} {elapsed : Nat} {wave rest : List Level}
    (hcount : stage.counted ≤ elapsed) (h : measureWave t stage elapsed wave = some (d, rest)) : d ≤ t := by
  fun_induction measureWave t stage elapsed wave with
  | case1 => cases h
  | case2 =>
    cases h
    exact Nat.zero_le t
  | case3 _ _ _ ih | case4 _ _ _ ih | case5 _ _ _ ih => exact ih (Nat.zero_le _) h
  | case6 elapsed _ _ ih => exact ih (Nat.le_add_left 1 elapsed) h
  | case7 _ _ _ _ ih => exact ih (Nat.succ_le_succ hcount) h
  | case8 _ _ hle =>
    cases h
    exact le_trans hcount (Nat.not_lt.mp hle)

/-- Settles O36: a measurement begins with nothing counted. -/
theorem measuredPulseFitsTheTimeout : Obligations.MeasuredPulseFitsTheTimeout :=
  fun _ _ _ _ h => measureWave_le (stage := .waitLow) (Nat.zero_le 0) h

/-! ### What of a reply reaches the state (R95, R97) -/

/-- Eight widths on the same sides of the threshold spell the same byte. -/
theorem byteOfWidths_congr {thresh : Nat} {ws ws' : List Nat} (hlen : ws.length = 8) (hlen' : ws'.length = 8)
    (h : ∀ i < 8, (ws.getD i 0 > thresh ↔ ws'.getD i 0 > thresh)) :
    byteOfWidths thresh ws = byteOfWidths thresh ws' := by
  obtain ⟨-, hbits⟩ := decodesTo_byteOfWidths thresh hlen
  obtain ⟨-, hbits'⟩ := decodesTo_byteOfWidths thresh hlen'
  apply BitVec.eq_of_getLsbD_eq
  intro i hi
  rw [Bool.eq_iff_iff, ← hbits i hi, ← hbits' i hi]
  exact h i hi

/-- Eight widths that stand first are the next eight answers (R96). -/
theorem answers_of_widths {s : State} {ws rest : List Nat} (hw : s.widths = ws ++ rest) (hlen : ws.length = 8) :
    s.answers = ws := by
  rw [State.answers, hw, ← hlen, answersOf_append]

/-- What a cycle leaves, apart from the trace and the transport's own registers, when eight widths are listed:
nothing of it but the reply byte depends on them. -/
def afterCycle (s : State) (reply : Byte) (rest : List Nat) : State :=
  { s with
    slots := (cycle s.cfg.recordAll s.slots s.cursor reply).slots
    cursor := s.cursor + 1
    out := outputsOf s.slots
    cks := checksum (outputsOf s.slots) s.cursor
    rx := reply
    dir := .input
    lvl := s.cfg.stopLevel
    shift := 0
    bitIx := 0
    timer := 0
    rsp := .silent
    widths := rest
    trace := [] }

/-- Eight listed widths reach the state a cycle leaves as the byte they spell (R97). -/
theorem updateCycle_of_widths (s : State) {ws rest : List Nat} (hlen : ws.length = 8) :
    { (respond .silent (updateCycle { s with widths := ws ++ rest })).visible with trace := [] } =
      afterCycle s (byteOfWidths s.cfg.tThresh ws) rest := by
  have hanswers : State.answers { s with widths := ws ++ rest } = ws := answers_of_widths rfl hlen
  have hdrop : (ws ++ rest).drop 8 = rest := List.drop_left' hlen
  have hdraws : 8 - (ws ++ rest).length = 0 := by
    rw [List.length_append]
    omega
  rw [updateCycle_eq]
  simp only [State.reply, hanswers, hdrop, hdraws, Nat.add_zero, respond, State.visible, afterCycle]

/-- Settles O47: a cycle's widths reach the state as their byte alone. -/
theorem onlyTheReplyByteMatters : Obligations.OnlyTheReplyByteMatters := by
  intro s ws ws' rest hp hlen hlen' hsides
  refine ⟨_, _, exec_update (s := { s with widths := ws ++ rest }) hp,
    exec_update (s := { s with widths := ws' ++ rest }) hp, ?_⟩
  rw [updateCycle_of_widths s hlen, updateCycle_of_widths s hlen', byteOfWidths_congr hlen hlen' hsides]

end Sys2Proof.Machine
end

section
/-! Proofs of the statements about the checksum (`41_checksum.md`): in an accumulator of 10 bits or more `compute`
is the checksum byte of format K, whose high nibble is a function of the sum of the bytes. -/

namespace Sys2Proof.Machine

/-! ### The folded sum over the naturals (R111, R112) -/

/-- The sum of four output bytes, over the naturals (R112). -/
def byteSum (out : Quad Byte) : Nat := out.q0.toNat + out.q1.toNat + out.q2.toNat + out.q3.toNat

/-- The sum after the first fold, over the naturals (R112). -/
def foldedSum (out : Quad Byte) : Nat := byteSum out + byteSum out / 256

/-- The high nibble of the checksum: the two nibbles of the folded sum, added (R112). -/
def sumNibble (out : Quad Byte) : BitVec 4 := BitVec.ofNat 4 (foldedSum out / 16 + foldedSum out)

theorem byteSum_le (out : Quad Byte) : byteSum out ≤ 1020 := by
  have h0 := out.q0.isLt
  have h1 := out.q1.isLt
  have h2 := out.q2.isLt
  have h3 := out.q3.isLt
  unfold byteSum
  omega

/-! ### `compute` in an accumulator of `w` bits (R110, R111) -/

/-- The sum of the bytes, wrapped at `w` bits. -/
theorem addBytes_eq_ofNat (w : Nat) (out : Quad Byte) :
    out.q0.zeroExtend w + out.q1.zeroExtend w + out.q2.zeroExtend w + out.q3.zeroExtend w =
      BitVec.ofNat w (byteSum out) := by
  simp only [byteSum, BitVec.ofNat_add, BitVec.truncate_eq_setWidth, BitVec.ofNat_toNat]

/-- The first fold loses nothing in 10 bits or more, which hold the whole sum (R111). -/
theorem firstFold_eq_ofNat {w : Nat} (hw : 10 ≤ w) (out : Quad Byte) :
    BitVec.ofNat w (byteSum out) + (BitVec.ofNat w (byteSum out) >>> 8) = BitVec.ofNat w (foldedSum out) := by
  have hfit : byteSum out < 2 ^ w :=
    (Nat.lt_succ_of_le (byteSum_le out)).trans_le
      ((by decide : 1021 ≤ 2 ^ 10).trans (Nat.pow_le_pow_right (by decide) hw))
  have hshift : BitVec.ofNat w (byteSum out) >>> 8 = BitVec.ofNat w (byteSum out / 256) := by
    apply BitVec.eq_of_toNat_eq
    rw [BitVec.toNat_ushiftRight, BitVec.toNat_ofNat, BitVec.toNat_ofNat, Nat.mod_eq_of_lt hfit,
      Nat.mod_eq_of_lt ((Nat.div_le_self ..).trans_lt hfit), Nat.shiftRight_eq_div_pow]
  rw [hshift, ← BitVec.ofNat_add, foldedSum]

/-- The second fold adds 16 times the value, in any width (R110). -/
theorem secondFold_eq_ofNat (w n : Nat) :
    BitVec.ofNat w n + (BitVec.ofNat w n <<< 4) = BitVec.ofNat w (n + n * 16) := by
  have hshift : BitVec.ofNat w n <<< 4 = BitVec.ofNat w (n * 16) := by
    apply BitVec.eq_of_toNat_eq
    rw [BitVec.toNat_shiftLeft, BitVec.toNat_ofNat, BitVec.toNat_ofNat, Nat.shiftLeft_eq, Nat.mod_mul_mod]
  rw [hshift, ← BitVec.ofNat_add]

/-- The mask keeps the high nibble (R110). -/
theorem and_highMask (b : Byte) : b &&& 0xF0#8 = b.extractLsb' 4 4 ++ 0#4 := by
  apply BitVec.eq_of_getLsbD_eq
  intro i hi
  rw [BitVec.getLsbD_and, BitVec.getLsbD_append, BitVec.getLsbD_extractLsb']
  interval_cases i <;> simp

/-- A high nibble with the slot below it is the checksum byte of format K (R63). -/
theorem highNibble_or_slot (sum : BitVec 4) (k : SlotIx) :
    (sum ++ 0#4 : Byte) ||| (BitVec.ofNat 8 k.val &&& 0x0F#8) = checksumBits sum k := by
  revert sum k
  decide

/-- The high nibble of the low byte of `n + n * 16`. -/
theorem extractHigh_ofNat (n : Nat) :
    (BitVec.ofNat 8 (n + n * 16)).extractLsb' 4 4 = BitVec.ofNat 4 (n / 16 + n) := by
  have hdiv : n / 16 + n = (n + n * 16) / 16 := by omega
  apply BitVec.eq_of_toNat_eq
  rw [BitVec.extractLsb'_toNat, BitVec.toNat_ofNat, BitVec.toNat_ofNat, Nat.shiftRight_eq_div_pow, hdiv]
  generalize n + n * 16 = m
  omega

/-- In 10 bits or more `compute` gives the checksum byte with the sum's nibble and the slot (R111, R63). -/
theorem checksumAt_eq_checksumBits {w : Nat} (hw : 10 ≤ w) (out : Quad Byte) (k : SlotIx) :
    checksumAt w out k = checksumBits (sumNibble out) k := by
  have h8 : 8 ≤ w := by omega
  simp only [checksumAt, addBytes_eq_ofNat, firstFold_eq_ofNat hw, secondFold_eq_ofNat, BitVec.setWidth_or,
    BitVec.setWidth_and, BitVec.setWidth_ofNat_of_le h8]
  rw [and_highMask, highNibble_or_slot, extractHigh_ofNat, sumNibble]

theorem checksum_eq_checksumBits (out : Quad Byte) (k : SlotIx) : checksum out k = checksumBits (sumNibble out) k :=
  checksumAt_eq_checksumBits (by decide) out k

/-! ### The checksum's two fields (R63, R112) -/

/-- The fields of the checksum as a number (R63). -/
theorem checksum_toNat (out : Quad Byte) (k : SlotIx) :
    (checksum out k).toNat = (sumNibble out).toNat * 16 + k.val := by
  rw [checksum_eq_checksumBits, checksumBits_toNat]

theorem sumNibble_toNat (out : Quad Byte) :
    (sumNibble out).toNat = (foldedSum out / 16 % 16 + foldedSum out % 16) % 16 := by
  rw [sumNibble, BitVec.toNat_ofNat, Nat.add_mod]

theorem checksum_eq_checksumClosed (out : Quad Byte) (k : SlotIx) : checksum out k = checksumClosed out k := by
  have hofNat : BitVec.ofNat 8 (checksum out k).toNat = checksum out k := by
    rw [BitVec.ofNat_toNat, BitVec.setWidth_eq]
  rw [← hofNat, checksum_toNat, sumNibble_toNat]
  rfl

/-- Settles O37: the step writes `cks` alone, and the checksum is its closed form. -/
theorem computeIsTheClosedForm : Obligations.ComputeIsTheClosedForm := by
  intro s out k
  have hexec : exec (.compute out k) s = .next { s with cks := checksum out k } := rfl
  rw [hexec, checksum_eq_checksumClosed]
  rfl

/-- Settles O38: in 10 bits or more nothing the checksum reads is lost, and four bytes `0xFF` carry into bits 8
and 9. -/
theorem tenBitAccumulatorIsEnough : Obligations.TenBitAccumulatorIsEnough := by
  refine ⟨fun w out k hw => ?_, ⟨⟨0xFF, 0xFF, 0xFF, 0xFF⟩, 0, by decide⟩, ⟨⟨0xFF, 0xFF, 0xFF, 0xFF⟩, 0, by decide⟩⟩
  rw [checksumAt_eq_checksumBits hw, checksum_eq_checksumBits]

/-- Settles O39: the two fields of the checksum are the sum's nibble and the slot. -/
theorem checksumDependsOnlyOnSumAndSlot : Obligations.ChecksumDependsOnlyOnSumAndSlot := by
  refine ⟨fun out k => ?_, fun out k k' => ?_, fun out out' k hsum => ?_⟩
  · rw [checksum_toNat]
    omega
  · rw [checksum_toNat, checksum_toNat]
    omega
  · have hbytes : byteSum out = byteSum out' := hsum
    rw [checksum_eq_checksumBits, checksum_eq_checksumBits, sumNibble, sumNibble, foldedSum, foldedSum, hbytes]

end Sys2Proof.Machine
end

section
/-! Proofs of the statements about a slot's output and input (`42_module_state.md`): what the three operations of
ModuleState write, and what a slot with nothing pending sends over many cycles. -/

namespace Sys2Proof.Machine

/-! ### The queue and the input byte (R120, R124) -/

/-- What a setter does on a slot that exists, with no cycle in progress (R180). -/
theorem enqueue_idle {s : State} (k : SlotIx) (q : List Byte) (hp : s.phase = .idle) :
    enqueue k.val q s = .next (onSlot k (setPend q) (respond .silent s)) := by
  rw [enqueue, asHost_idle hp, withSlot_val]

theorem exec_setPending {s : State} (k : SlotIx) (b0 : Byte) (b1 : Option Byte) (hp : s.phase = .idle) :
    exec (.setPending k.val b0 b1) s = .next (onSlot k (setPend (queueOf b0 b1)) (respond .silent s)) :=
  enqueue_idle k (queueOf b0 b1) hp

/-- Settles O14: the two lengths of the command are the two queues. -/
theorem setPendingReplacesTheQueue : Obligations.SetPendingReplacesTheQueue := by
  intro s k b0 b1 hp
  rw [exec_setPending k b0 b1 hp]
  cases b1 <;> rfl

/-- A queue of one or two bytes passes the check (R203 `BadQueueLength`). -/
theorem withQueue_of_length {q : List Byte} (hq : q.length = 1 ∨ q.length = 2) (r : Result) : withQueue q r = r := by
  have hok : queueOk q = true := by rcases hq with h | h <;> simp [queueOk, qCap, h]
  rw [withQueue, if_pos hok]

theorem exec_setPendingOutput (k : SlotIx) {q : List Byte} (hq : q.length = 1 ∨ q.length = 2) (s : State) :
    exec (.setPendingOutput k.val q) s = .next (onSlot k (setPend q) s) := by
  simp only [exec, execSetPendingOutput, withQueue_of_length hq, withSlot_val]

/-- Settles O24: the queue's length and the slot pass their checks. -/
theorem setPendingOutputWritesOnlyTheQueue : Obligations.SetPendingOutputWritesOnlyTheQueue :=
  fun s k _ hq => exec_setPendingOutput k hq s

/-- Settles O26: the slot passes its check, and the record is one field. -/
theorem recordInputStoresTheByte : Obligations.RecordInputStoresTheByte :=
  fun s k b => exec_recordInput k b s

/-! ### The byte to send (R122) -/

theorem nextOutput_out (k : SlotIx) (s : State) : (nextOutput k s).out.get k = (popOutput (s.slot k)).1 :=
  Quad.get_set_same ..

theorem slot_nextOutput (k : SlotIx) (s : State) : (nextOutput k s).slot k = (popOutput (s.slot k)).2 :=
  slot_putSlot_same ..

/-- With nothing pending the register file stays (R122). -/
theorem nextOutput_of_nil {k : SlotIx} {s : State} (h : (s.slot k).pend = []) :
    nextOutput k s = { s with out := s.out.set k (s.slot k).cached } := by
  rw [nextOutput_eq, popOutput_nil h, State.slot, Quad.set_get]

/-- With a byte pending it is sent, and becomes the `cached` byte (R122). -/
theorem nextOutput_of_cons {k : SlotIx} {b : Byte} {rest : List Byte} {s : State} (h : (s.slot k).pend = b :: rest) :
    nextOutput k s =
      { s with out := s.out.set k b, slots := s.slots.set k { s.slot k with pend := rest, cached := b } } := by
  rw [nextOutput_eq, popOutput_cons h]

/-- Three pops of a two-byte queue: the first byte, the second, and the second again (R122). -/
theorem nextOutput_three {k : SlotIx} {a b : Byte} {s : State} (h : (s.slot k).pend = [a, b]) :
    (nextOutput k s).out.get k = a ∧ (nextOutput k (nextOutput k s)).out.get k = b ∧
    (nextOutput k (nextOutput k (nextOutput k s))).out.get k = b := by
  have hfirst := popOutput_cons h
  have hsecond : popOutput ((nextOutput k s).slot k) = (b, { s.slot k with pend := [], cached := b }) := by
    rw [slot_nextOutput, hfirst, popOutput_cons rfl]
  have hthird : popOutput ((nextOutput k (nextOutput k s)).slot k) =
      (b, { s.slot k with pend := [], cached := b }) := by
    rw [slot_nextOutput, hsecond, popOutput_nil rfl]
  simp only [nextOutput_out, hfirst, hsecond, hthird, and_self]

/-- Settles O25: the two branches of the pop, and what follows from them. -/
theorem nextOutputBytePopsOrRepeats : Obligations.NextOutputBytePopsOrRepeats := by
  refine ⟨fun s k b rest hq => ?_, fun s k hq => ?_, fun s t k ht => ?_, fun s k a b hq => ?_, fun k => ?_,
    fun c k => encode_internal c rfl⟩
  · rw [exec_nextOutputByte, nextOutput_of_cons hq]
  · rw [exec_nextOutputByte, nextOutput_of_nil hq]
  · obtain rfl : nextOutput k s = t := Host.Outcome.next.inj ((exec_nextOutputByte k s).symm.trans ht)
    rw [nextOutput_out, slot_nextOutput, popOutput_cached]
  · exact ⟨_, _, _, exec_nextOutputByte k _, exec_nextOutputByte k _, exec_nextOutputByte k _, nextOutput_three hq⟩
  · refine ⟨_, exec_nextOutputByte k _, ?_⟩
    rw [nextOutput_out, slot_reset]
    rfl

/-! ### The sticky output (R123) -/

/-- An undisturbed cycle of a slot with nothing pending: the `cached` byte is sent, and the slot's output stays
(R122, R123). -/
theorem updateCycle_sticky {k : SlotIx} {r : Byte} {s : State} (hq : (s.slot k).pend = [])
    (h : k = s.cursor → ¬ (s.slot k).disturbedBy r) :
    ((updateCycle (supplyReply r s)).slot k).pend = [] ∧
    ((updateCycle (supplyReply r s)).slot k).cached = (s.slot k).cached ∧
    (updateCycle (supplyReply r s)).out.get k = (s.slot k).cached := by
  obtain ⟨hpend, hcached⟩ := updateCycle_undisturbed h
  rw [hq] at hpend
  rw [popOutput_nil hq] at hcached
  refine ⟨hpend, hcached, ?_⟩
  rw [updateCycle_out, slot_supplyReply, popOutput_nil hq]

/-- What a slot with nothing pending sends over any number of undisturbed cycles (R123). -/
theorem runCycles_sticky {k : SlotIx} {replies : List Byte} {s : State} (hq : (s.slot k).pend = [])
    (h : Undisturbed k replies s) :
    ((runCycles replies s).slot k).pend = [] ∧ ((runCycles replies s).slot k).cached = (s.slot k).cached ∧
    (replies ≠ [] → (runCycles replies s).out.get k = (s.slot k).cached) := by
  induction replies generalizing s with
  | nil => exact ⟨hq, rfl, fun hne => absurd rfl hne⟩
  | cons r rs ih =>
    obtain ⟨hfirst, hrest⟩ := undisturbed_cons h
    obtain ⟨hpend, hcached, hout⟩ := updateCycle_sticky hq hfirst
    obtain ⟨ihpend, ihcached, ihout⟩ := ih hpend hrest
    rw [runCycles_cons]
    refine ⟨ihpend, ihcached.trans hcached, fun _ => ?_⟩
    by_cases hrs : rs = []
    · rw [hrs, runCycles_nil, hout]
    · rw [ihout hrs, hcached]

/-- In no cycle of these in which slot `k` is the active one is the reply 0x00, the disconnect (R145). -/
def NeverDisconnects (k : SlotIx) (replies : List Byte) (s : State) : Prop :=
  ∀ n r, replies[n]? = some r → activeAfter n s = k → r ≠ 0x00

theorem NeverDisconnects.cons {k : SlotIx} {r : Byte} {rs : List Byte} {s : State}
    (h : NeverDisconnects k (r :: rs) s) :
    (k = s.cursor → r ≠ 0x00) ∧ NeverDisconnects k rs (updateCycle (supplyReply r s)) :=
  ⟨fun hk => h 0 r rfl ((activeAfter_zero s).trans hk.symm),
    fun n x hn ha => h (n + 1) x hn ((activeAfter_cycle n r s).symm.trans ha)⟩

theorem NeverDisconnects.take {k : SlotIx} {replies : List Byte} {s : State} (h : NeverDisconnects k replies s)
    (n : Nat) : NeverDisconnects k (replies.take n) s := by
  intro m r hm
  rw [List.getElem?_take] at hm
  split at hm
  · exact h m r hm
  · cases hm

/-- A cycle in which no 0x00 reaches a TypeKnown slot leaves it TypeKnown (R145, R147). -/
theorem updateCycle_typeKnown {k : SlotIx} {r : Byte} {s : State} (hc : (s.slot k).conn = .typeKnown)
    (hr : k = s.cursor → r ≠ 0x00) : ((updateCycle (supplyReply r s)).slot k).conn = .typeKnown := by
  have hpop : (popOutput (s.slot k)).2.conn = .typeKnown := (popOutput_module _).1.trans hc
  rw [updateCycle_slot]
  simp only [slot_supplyReply, reply_supplyReply, supplyReply_cursor]
  split
  · next hk => rw [discoverySlot_known _ _ hpop (hr hk)]; exact hpop
  · exact hpop

theorem runCycles_typeKnown {k : SlotIx} {replies : List Byte} {s : State} (hc : (s.slot k).conn = .typeKnown)
    (h : NeverDisconnects k replies s) : ((runCycles replies s).slot k).conn = .typeKnown := by
  induction replies generalizing s with
  | nil => exact hc
  | cons r rs ih => exact ih (updateCycle_typeKnown hc h.cons.1) h.cons.2

/-- A TypeKnown slot is disturbed by nothing but 0x00, and it is TypeKnown before each of the cycles. -/
theorem undisturbed_of_typeKnown {k : SlotIx} {replies : List Byte} {s : State} (hc : (s.slot k).conn = .typeKnown)
    (h : NeverDisconnects k replies s) : Undisturbed k replies s := by
  intro n r hn ha hd
  have hknown := runCycles_typeKnown hc (h.take n)
  rcases hd with ⟨hdisc, -⟩ | ⟨-, hr⟩
  · exact absurd (hknown.symm.trans hdisc) (by decide)
  · exact h n r hn ha hr

/-- Settles O50: by induction on the replies, and a TypeKnown slot that is never disconnected is undisturbed. -/
theorem outputIsSticky : Obligations.OutputIsSticky :=
  ⟨fun _ _ _ hq h => runCycles_sticky hq h,
    fun _ _ _ hc hq h => ⟨runCycles_typeKnown hc h, runCycles_sticky hq (undisturbed_of_typeKnown hc h)⟩⟩

end Sys2Proof.Machine
end

section
/-! Proofs of the statements about the discovery step and its place in a cycle (`43_discovery.md`): the table of
the step, what a cycle makes of a slot that is active and of one that is not, and how long a discovery takes. -/

namespace Sys2Proof.Machine

/-! ### The transition table (R149), one equation per connection state -/

/-- A Disconnected slot is announced by 0xFE alone, whatever was sent (R141, R142). -/
theorem discoveryArm_disconnected {sl : Slot} (sent rx : Byte) (h : sl.conn = .disconnected) :
    discoveryArm sent rx sl = if rx = 0xFE then { sl with conn := .discovered, pend := [0xFC] } else sl := by
  cases sl
  cases h
  rfl

/-- A Discovered slot takes a type code alone, and only in answer to the type request (R143, R144). -/
theorem discoveryArm_discovered {sl : Slot} (sent rx : Byte) (h : sl.conn = .discovered) :
    discoveryArm sent rx sl =
      if sent ≠ 0xFC then sl
      else if rx = 0x01 then { sl with conn := .typeKnown, mtype := .servo, justConn := true }
      else if rx = 0x02 then { sl with conn := .typeKnown, mtype := .led, justConn := true }
      else sl := by
  simp only [discoveryArm, h]
  by_cases hs : sent = 0xFC
  · subst hs
    simp only [codeTypeRequest, true_and, ne_eq, not_true_eq_false, if_false]
    rfl
  · rw [if_neg (fun hc => hs hc.1), if_neg (fun hc => hs hc.1), if_pos hs]

/-- A TypeKnown slot is disconnected by 0x00 and records any other byte (R145, R147). -/
theorem discoveryArm_typeKnown {sl : Slot} (sent rx : Byte) (h : sl.conn = .typeKnown) :
    discoveryArm sent rx sl = if rx = 0x00 then Slot.initial else { sl with lastIn := rx } := by
  cases sl
  cases h
  rfl

/-- Settles O27: the arm is the table's row for the slot's connection state, and the parameter's record follows
it. -/
theorem discoveryTransitionTable : Obligations.DiscoveryTransitionTable := by
  intro s k sent rx sl after
  have harm : discoveryArm sent rx sl = after := by
    simp only [after]
    split
    · next hc => exact discoveryArm_disconnected sent rx hc
    · next hc => exact discoveryArm_discovered sent rx hc
    · next hc => exact discoveryArm_typeKnown sent rx hc
  rw [exec_dsmStep, dsmStep_eq, ← harm]
  rfl

/-- Settles O28: a Discovered slot is disturbed by no reply, so it sends the queued request and then repeats
it. -/
theorem discoverQueuesTheTypeRequest : Obligations.DiscoverQueuesTheTypeRequest := by
  intro s k sent hall hc t
  have hslot : t.slot k = { s.slot k with conn := .discovered, pend := [0xFC] } := Quad.get_set_same ..
  have hq : (t.slot k).pend = [0xFC] := by rw [hslot]
  refine ⟨?_, fun r1 r2 => ?_⟩
  · rw [exec_dsmStep, dsmStep_eq, hall, discoverySlot, discoveryArm_disconnected sent _ hc]
    rfl
  · have hfree : ¬ (t.slot k).disturbedBy r1 := by
      rw [hslot]
      simp [Slot.disturbedBy]
    obtain ⟨hpend, hcached⟩ := updateCycle_undisturbed fun _ : k = t.cursor => hfree
    rw [hq, List.tail_cons] at hpend
    rw [popOutput_cons hq] at hcached
    simp only [runCycles_cons, runCycles_nil, updateCycle_out, slot_supplyReply, popOutput_cons hq,
      popOutput_nil hpend, hcached, and_self]

/-- Settles O29: the table's first row without the announcement. -/
theorem disconnectedIgnoresOtherBytes : Obligations.DisconnectedIgnoresOtherBytes := by
  intro s k sent rx hc hr
  have harm : discoveryArm sent rx (s.slot k) = s.slot k := by
    rw [discoveryArm_disconnected sent rx hc, if_neg hr]
  refine ⟨fun hall => ?_, fun hall => ?_⟩
  · rw [exec_dsmStep, dsmStep_eq, discoverySlot, hall, harm, if_neg Bool.false_ne_true, State.slot, Quad.set_get]
  · rw [exec_dsmStep, dsmStep_eq, discoverySlot, hall, harm]
    rfl

/-! ### A cycle, slot by slot (R148) -/

/-- The byte sent is the head of the queue, or the `cached` byte if there is none (R122). -/
theorem popOutput_fst (sl : Slot) : (popOutput sl).1 = sl.pend.headD sl.cached := by
  cases h : sl.pend with
  | nil => rw [popOutput_nil h, List.headD_nil]
  | cons b rest => rw [popOutput_cons h, List.headD_cons]

/-- A cycle does nothing to a slot that is not active but take its output byte (R148). -/
theorem updateCycle_slot_passive {s : State} {k : SlotIx} (hk : k ≠ s.cursor) :
    (updateCycle s).slot k = (popOutput (s.slot k)).2 := by
  rw [updateCycle_slot, if_neg hk]

/-- Settles O45: a slot that is not active is popped and nothing more. -/
theorem passiveSlotsOnlySend : Obligations.PassiveSlotsOnlySend := by
  intro s hp
  refine ⟨_, exec_update hp, fun k hk => ?_⟩
  rw [slot_respond, respond_out, updateCycle_slot_passive hk, updateCycle_out]
  exact ⟨popOutput_frame _, popOutput_fst _⟩

/-- Settles O46: a slot after a cycle is a function of the parameters, the cursor, the reply and that slot. -/
theorem slotsDoNotInfluenceEachOther : Obligations.SlotsDoNotInfluenceEachOther := by
  intro s s' t t' k hcfg hcur hreply hslot ht ht'
  obtain ⟨-, rfl⟩ := execUpdate_next ht
  obtain ⟨-, rfl⟩ := execUpdate_next ht'
  simp only [slot_respond, respond_out, updateCycle_slot, updateCycle_out, hcfg, hcur, hreply, hslot, and_self]

/-! ### Several cycles, in which a slot is active at most once -/

/-- What a cycle with the reply `r` makes of the active slot: its output byte is taken, and the reply dispatched
(R160). -/
def takeTurn (all : Bool) (r : Byte) (sl : Slot) : Slot :=
  discoverySlot all (popOutput sl).1 r (popOutput sl).2

theorem updateCycle_slot_active (r : Byte) (s : State) :
    (updateCycle (supplyReply r s)).slot s.cursor = takeTurn s.cfg.recordAll r (s.slot s.cursor) := by
  rw [updateCycle_slot, supplyReply_cursor, if_pos rfl, reply_supplyReply]
  rfl

theorem runCycles_append (rs rs' : List Byte) (s : State) :
    runCycles (rs ++ rs') s = runCycles rs' (runCycles rs s) :=
  List.foldl_append

theorem activeAfter_val (n : Nat) (s : State) : (activeAfter n s).val = (s.cursor.val + n) % 4 := by
  simp [activeAfter, Fin.val_add, Fin.ofNat]

/-- Two cycles with the same active slot are the same or at least four apart (R162). -/
theorem activeAfter_ne {m n : Nat} (s : State) (hmn : m < n) (hn : n < m + 4) : activeAfter m s ≠ activeAfter n s := by
  intro h
  have hval := congrArg Fin.val h
  rw [activeAfter_val, activeAfter_val] at hval
  omega

/-- Every slot is active in one of the next four cycles (R162). -/
theorem exists_activeAfter (k : SlotIx) (s : State) : ∃ n < 4, activeAfter n s = k := by
  refine ⟨(k - s.cursor).val, (k - s.cursor).isLt, ?_⟩
  have h : ∀ c k : Fin 4, c + Fin.ofNat 4 (k - c).val = k := by decide
  exact h s.cursor k

theorem runCycles_four_cursor (r0 r1 r2 r3 : Byte) (s : State) :
    (runCycles [r0, r1, r2, r3] s).cursor = s.cursor := by
  have h : ∀ c : Fin 4, c + 1 + 1 + 1 + 1 = c := by decide
  simp only [runCycles_cons, runCycles_nil, updateCycle_cursor, supplyReply_cursor, h]

/-- What a pop leaves true of a slot stays true over cycles in which the slot is not active (R148). -/
theorem runCycles_passive {P : Slot → Prop} (hpop : ∀ sl, P sl → P (popOutput sl).2) {k : SlotIx}
    {replies : List Byte} {s : State} (hk : ∀ n < replies.length, activeAfter n s ≠ k) (h : P (s.slot k)) :
    P ((runCycles replies s).slot k) := by
  induction replies generalizing s with
  | nil => exact h
  | cons r rs ih =>
    have hne : k ≠ (supplyReply r s).cursor := fun hc => hk 0 (by simp) ((activeAfter_zero s).trans hc.symm)
    refine ih (fun n hn => ?_) ?_
    · rw [activeAfter_cycle]
      exact hk (n + 1) (by simpa using hn)
    · rw [updateCycle_slot_passive hne]
      exact hpop _ h

/-- Over at most four cycles a slot that has its turn in one of them goes from `Before` to `After`, if that turn
does it and a pop leaves both true (R148, R162). -/
theorem runCycles_turn {Before After : Slot → Prop} (hbefore : ∀ sl, Before sl → Before (popOutput sl).2)
    (hafter : ∀ sl, After sl → After (popOutput sl).2) {k : SlotIx} {r : Byte}
    (hturn : ∀ all sl, Before sl → After (takeTurn all r sl)) {n : Nat} {replies : List Byte} {s : State}
    (hlen : replies.length ≤ 4) (hr : replies[n]? = some r) (hk : activeAfter n s = k) (h : Before (s.slot k)) :
    After ((runCycles replies s).slot k) := by
  induction replies generalizing s n with
  | nil => simp at hr
  | cons r' rs ih =>
    rw [List.length_cons] at hlen
    subst hk
    cases n with
    | zero =>
      obtain rfl : r' = r := by simpa using hr
      rw [runCycles_cons]
      refine runCycles_passive hafter (fun m hm => ?_) ?_
      · rw [activeAfter_cycle]
        exact (activeAfter_ne s (by omega) (by omega)).symm
      · rw [activeAfter_zero] at h ⊢
        rw [updateCycle_slot_active]
        exact hturn _ _ h
    | succ n =>
      have hn : n < rs.length := by simpa using (List.getElem?_eq_some_iff.mp hr).1
      have hne : activeAfter (n + 1) s ≠ (supplyReply r' s).cursor := by
        rw [supplyReply_cursor, ← activeAfter_zero]
        exact (activeAfter_ne s (by omega) (by omega)).symm
      refine ih (by omega) hr (activeAfter_cycle n r' s) ?_
      rw [updateCycle_slot_passive hne]
      exact hbefore _ h

/-- Over four cycles every slot goes from `Before` to `After`, if its turn with any of the replies does it. -/
theorem runCycles_round {Before After : Slot → Prop} (hbefore : ∀ sl, Before sl → Before (popOutput sl).2)
    (hafter : ∀ sl, After sl → After (popOutput sl).2) {replies : List Byte}
    (hturn : ∀ r ∈ replies, ∀ all sl, Before sl → After (takeTurn all r sl)) {k : SlotIx} {s : State}
    (hlen : replies.length = 4) (h : Before (s.slot k)) : After ((runCycles replies s).slot k) := by
  obtain ⟨n, hn, hk⟩ := exists_activeAfter k s
  have hn' : n < replies.length := by omega
  exact runCycles_turn hbefore hafter (hturn _ (List.getElem_mem hn')) hlen.le (List.getElem?_eq_getElem hn') hk h

/-! ### How long a discovery takes (R150) -/

/-- The slot is in the connection state `c` (R11). -/
def InState (c : Conn) (sl : Slot) : Prop := sl.conn = c

/-- The slot is Discovered, and sends the type request in every cycle to come (R141, R123). -/
def AwaitsType (sl : Slot) : Prop := sl.conn = .discovered ∧ sl.pend.tail = [] ∧ (popOutput sl).1 = 0xFC

/-- The slot is TypeKnown with the type `m`, and its flag is set (R143). -/
def KnownAs (m : ModuleType) (sl : Slot) : Prop := sl.conn = .typeKnown ∧ sl.mtype = m ∧ sl.justConn = true

theorem InState.pop {c : Conn} (sl : Slot) (h : InState c sl) : InState c (popOutput sl).2 :=
  (popOutput_module sl).1.trans h

theorem AwaitsType.pop (sl : Slot) (h : AwaitsType sl) : AwaitsType (popOutput sl).2 := by
  obtain ⟨hc, hq, hb⟩ := h
  have hempty : (popOutput sl).2.pend = [] := by rw [popOutput_frame]; exact hq
  refine ⟨(popOutput_module sl).1.trans hc, by rw [hempty, List.tail_nil], ?_⟩
  rw [popOutput_nil hempty, popOutput_cached, hb]

theorem KnownAs.pop {m : ModuleType} (sl : Slot) (h : KnownAs m sl) : KnownAs m (popOutput sl).2 := by
  rw [popOutput_frame]
  exact h

/-- The announcement (R141). -/
theorem takeTurn_announced (all : Bool) (sl : Slot) (h : InState .disconnected sl) :
    AwaitsType (takeTurn all 0xFE sl) := by
  have harm := discoveryArm_disconnected (popOutput sl).1 0xFE (h.pop sl)
  rw [if_pos rfl] at harm
  rw [takeTurn, discoverySlot, harm]
  cases all <;> exact ⟨rfl, rfl, rfl⟩

/-- The module type a type code names (R64, R143). -/
def namedType (code : Byte) : ModuleType := if code = 0x01 then .servo else .led

/-- The answer to the type request (R143). -/
theorem takeTurn_named {code : Byte} (hcode : code = 0x01 ∨ code = 0x02) (all : Bool) (sl : Slot)
    (h : AwaitsType sl) : KnownAs (namedType code) (takeTurn all code sl) := by
  have hc : (popOutput sl).2.conn = .discovered := (h.pop sl).1
  have harm : KnownAs (namedType code) (discoveryArm (popOutput sl).1 code (popOutput sl).2) := by
    rw [discoveryArm_discovered _ _ hc, if_neg (not_not.mpr h.2.2)]
    rcases hcode with rfl | rfl <;> exact ⟨rfl, rfl, rfl⟩
  cases all <;> exact harm

/-- Settles O52: a round in which the slot's own turn brings 0xFE, and then its turn with the type code. -/
theorem discoveryCompletesInFiveCycles : Obligations.DiscoveryCompletesInFiveCycles := by
  refine ⟨fun s r1 r2 r3 code hc hcode => ?_, fun s c0 c1 c2 c3 hc hcodes k => ?_⟩
  · have hrequest : AwaitsType ((runCycles [0xFE, r1, r2, r3] s).slot s.cursor) :=
      runCycles_turn InState.pop AwaitsType.pop takeTurn_announced (n := 0) le_rfl rfl (activeAfter_zero s) hc
    have hcursor : activeAfter 0 (runCycles [0xFE, r1, r2, r3] s) = s.cursor :=
      (activeAfter_zero _).trans (runCycles_four_cursor 0xFE r1 r2 r3 s)
    have hsplit : runCycles [0xFE, r1, r2, r3, code] s = runCycles [code] (runCycles [0xFE, r1, r2, r3] s) :=
      runCycles_append [0xFE, r1, r2, r3] [code] s
    rw [hsplit]
    exact runCycles_turn AwaitsType.pop KnownAs.pop (takeTurn_named hcode) (n := 0) (by simp) rfl hcursor hrequest
  · have hrequest : AwaitsType ((runCycles [0xFE, 0xFE, 0xFE, 0xFE] s).slot k) :=
      runCycles_round InState.pop AwaitsType.pop (by simpa using takeTurn_announced) rfl (hc k)
    have hsplit : runCycles [0xFE, 0xFE, 0xFE, 0xFE, c0, c1, c2, c3] s =
        runCycles [c0, c1, c2, c3] (runCycles [0xFE, 0xFE, 0xFE, 0xFE] s) :=
      runCycles_append [0xFE, 0xFE, 0xFE, 0xFE] [c0, c1, c2, c3] s
    rw [hsplit]
    exact runCycles_round (After := InState .typeKnown) AwaitsType.pop InState.pop
      (fun c hmem all sl h => (takeTurn_named (hcodes c hmem) all sl h).1) rfl hrequest

end Sys2Proof.Machine
end

section
/-! Proofs of the statements about the chain engine (`44_chain_engine.md`): when a step takes an input, `UPDATE` as
its pseudocode and as a function, the walk of the cursor, and how much a cycle puts on the line. -/

namespace Sys2Proof.Machine

/-! ### What a step takes from outside (R164, R165) -/

theorem tick_idle {s : State} (hp : s.phase = .idle) : tick s = s := by
  simp only [tick, hp]

theorem step_no_input {s : State} (hi : s.inputs = []) : step s = .next (tick s) := by
  simp only [step, hi]

/-- Settles O8: with no input a step is a tick, and an idle machine's tick does nothing. -/
theorem nothingHappensWithoutTheHost : Obligations.NothingHappensWithoutTheHost := by
  intro s hp hi
  rw [step_no_input hi, tick_idle hp]

/-- Settles O9: a step of a busy machine is a tick, and a tick takes no input. -/
theorem noCommandIsAcceptedWhileBusy : Obligations.NoCommandIsAcceptedWhileBusy :=
  fun s hp hr => ⟨step_busy hp hr, tick_inputs s⟩

/-! ### `UPDATE` (R160, R166) -/

theorem andThen_sendByte (v : Byte) (s : State) (f : State → Result) :
    andThen (exec (.sendByte v) s) f = f (sendByte v s) := rfl

/-- The pop of slot `k` and the send of the byte popped are step 2 for slot `k` (R161). -/
theorem andThen_sendOutput {n : Nat} (k : SlotIx) (hk : k.val = n) (s : State) (f : State → Result) :
    (andThen (exec (.nextOutputByte n) s) fun t => andThen (exec (.sendByte (t.out.get k)) t) f) =
      f (sendOutput k s) := by
  subst hk
  rw [exec_nextOutputByte]
  rfl

/-- `compute` and the send of its result are step 3. -/
theorem andThen_sendChecksum (s : State) (f : State → Result) :
    (andThen (exec (.compute s.out s.cursor) s) fun t => andThen (exec (.sendByte t.cks) t) f) =
      f (sendChecksum s) := rfl

theorem andThen_receiveReply (s : State) (f : State → Result) :
    andThen (exec .receiveByte s) f = f (receiveReply s) := rfl

/-- The discovery step of the active slot and the advance of the cursor are the cycle's end (R162). -/
theorem andThen_dispatchReply (s : State) :
    (andThen (exec (.dsmStep s.cursor (s.out.get s.cursor) s.rx) s) fun t =>
      .next { t with cursor := t.cursor + 1, rsp := .silent }) = .next (respond .silent (dispatchReply s)) := by
  rw [exec_dsmStep]
  rfl

/-- Settles O41: the internal operations make the steps of the cycle, one after the other. -/
theorem updateRunsTheInternalOperationsInOrder : Obligations.UpdateRunsTheInternalOperationsInOrder := by
  intro s hp
  rw [exec_update hp, andThen_sendByte, andThen_sendOutput (n := 0) 0 rfl, andThen_sendOutput (n := 1) 1 rfl,
    andThen_sendOutput (n := 2) 2 rfl, andThen_sendOutput (n := 3) 3 rfl, andThen_sendChecksum, andThen_receiveReply,
    andThen_dispatchReply, updateCycle, sendFrame, sendHeader, codeHeader]

/-- Settles O40: everything a cycle does, without the transport's own registers. -/
theorem updateIsTheCycleFunction : Obligations.UpdateIsTheCycleFunction := by
  intro s hp r
  refine ⟨_, exec_update hp, ?_⟩
  rw [updateCycle_eq]
  simp only [respond, State.visible, cycleEvents, frameEvents, List.append_assoc]
  rfl

/-! ### The cursor (R20, R162) -/

/-- The cursor names the active slot of the next cycle. -/
theorem runCycles_cursor (replies : List Byte) (s : State) :
    (runCycles replies s).cursor = activeAfter replies.length s := by
  induction replies generalizing s with
  | nil => exact (activeAfter_zero s).symm
  | cons r rs ih => rw [runCycles_cons, ih, activeAfter_cycle, List.length_cons]

/-- Settles O49: the active slots follow one another, modulo 4. -/
theorem roundRobinNeverSkips : Obligations.RoundRobinNeverSkips := by
  intro replies s
  rw [runCycles_cursor, activeAfter_val]

/-! ### How many events a cycle adds, and how long the master's own timers take (R99, R167, R251) -/

theorem ownTime_append (es fs : List Event) : ownTime (es ++ fs) = ownTime es + ownTime fs := by
  simp only [ownTime, List.map_append, List.sum_append]

theorem sentEvents_length (c : Config) (v : Byte) : (sentEvents c v).length = 11 := rfl

theorem ownTime_drives (level : Nat → Level) (t : Nat) (is : List Nat) :
    ownTime (is.map fun i => .drive (level i) t) = is.length * t := by
  simp [ownTime, Function.comp_def, Event.ownTime]

/-- A sent byte holds the line for its start, data and stop slots, whatever its bits (R99). -/
theorem ownTime_sentEvents (c : Config) (v : Byte) :
    ownTime (sentEvents c v) = (c.startSlots + 8 + c.stopSlots) * c.tBit := by
  rw [sentEvents, ownTime_append, ownTime_append, ownTime_drives, List.length_range]
  simp only [ownTime, List.map_cons, List.map_nil, List.sum_cons, List.sum_nil, Event.ownTime]
  ring

theorem receivedEvents_length (c : Config) (ws : List Nat) : (receivedEvents c ws).length = 2 + ws.length := by
  simp only [receivedEvents, List.length_append, List.length_map, List.length_cons, List.length_nil]

/-- Of a receive only the settle delay is the master's own time (R96, R99). -/
theorem ownTime_receivedEvents (c : Config) (ws : List Nat) : ownTime (receivedEvents c ws) = c.tSettle := by
  simp [receivedEvents, ownTime, Function.comp_def, Event.ownTime]

theorem frameEvents_length (c : Config) (bytes : List Byte) :
    (frameEvents c bytes).length = bytes.length * 11 := by
  simp [frameEvents, List.length_flatMap, sentEvents_length]

theorem ownTime_frameEvents (c : Config) (bytes : List Byte) :
    ownTime (frameEvents c bytes) = bytes.length * ((c.startSlots + 8 + c.stopSlots) * c.tBit) := by
  induction bytes with
  | nil => exact (Nat.zero_mul _).symm
  | cons b bs ih =>
    have hfirst : frameEvents c (b :: bs) = sentEvents c b ++ frameEvents c bs := List.flatMap_cons
    rw [hfirst, ownTime_append, ownTime_sentEvents, ih, List.length_cons, Nat.succ_mul, Nat.add_comm]

/-- Settles O53: six bytes of eleven events, and a receive of a direction, a settle delay and eight
measurements. -/
theorem defaultCycleHasSeventySixEvents : Obligations.DefaultCycleHasSeventySixEvents := by
  intro s hp hcfg
  have hframe : (cycle s.cfg.recordAll s.slots s.cursor s.reply).frame.length = 6 := rfl
  have hanswers : s.answers.length = 8 := answersOf_length ..
  refine ⟨_, _, exec_update hp, by rw [updateCycle_eq]; rfl, ?_, ?_⟩
  · rw [cycleEvents, List.length_append, frameEvents_length, receivedEvents_length, hframe, hanswers]
  · rw [cycleEvents, ownTime_append, ownTime_frameEvents, ownTime_receivedEvents, hframe, hcfg]
    rfl

end Sys2Proof.Machine
end

section
/-! Proofs of the statements about the host's setters and queries (`45_setters_and_queries.md`): the byte or the two
bytes each setter enqueues, what each query answers, and what none of them touches. -/

namespace Sys2Proof.Machine

/-! ### Setters (R181 to R184) -/

/-- The position byte of an angle in range does not wrap (R65, R181). -/
theorem servoPosByte_toNat {deg : Nat} (h : deg ≤ 180) : (servoPosByte deg).toNat = 0x18 + deg * 208 / 180 := by
  have hmin : codeServoMin.toNat = 0x18 := rfl
  rw [servoPosByte, BitVec.toNat_add, BitVec.toNat_ofNat, hmin]
  omega

theorem exec_servoPos {s : State} (k : SlotIx) {deg : Nat} (hdeg : deg ≤ 180) (hp : s.phase = .idle) :
    exec (.servoPos k.val deg) s = .next (onSlot k (setPend [servoPosByte deg]) (respond .silent s)) := by
  have hok : angleOk deg = true := decide_eq_true hdeg
  rw [exec, execServoPos, asHost_idle hp, withAngle, if_pos hok, enqueue_idle k _ hp]

/-- Settles O15: the position byte is linear in the angle, so its range and anchors are the formula's. -/
theorem servoPosEnqueuesItsByte : Obligations.ServoPosEnqueuesItsByte := by
  intro s k deg hp hdeg
  have hbyte := servoPosByte_toNat hdeg
  refine ⟨servoPosByte deg, hbyte, by omega, by omega, ?_, ?_, ?_, exec_servoPos k hdeg hp⟩
  all_goals
    rintro rfl
    rfl

/-- Settles O16: the limit-mode code is the queue. -/
theorem servoLimEnqueuesLimitMode : Obligations.ServoLimEnqueuesLimitMode :=
  fun _ k hp => enqueue_idle k [codeServoLimitMode] hp

/-- Over the default base the colour stands in the low three bits (R183). -/
theorem servoColorByte_default_toNat (c : BitVec 3) : (servoColorByte 0xF0 c).toNat = 0xF0 + c.toNat := by
  revert c
  decide

/-- Over the default base the colour is read back from its byte (R67). -/
theorem servoColorOf_default (c : BitVec 3) : servoColorOf 0xF0 (servoColorByte 0xF0 c) = some c := by
  revert c
  decide

/-- A colour byte over the default base is no fixed code and no position, so it is read as its colour (R67). -/
theorem decode_servoColorByte {cfg : Config} (hbase : cfg.servoColorBase = 0xF0) (c : BitVec 3) :
    decode cfg (byteCode (.output .servo) (servoColorByte 0xF0 c)) = .error (.servoColorWithoutRow c) := by
  have hbyte := servoColorByte_default_toNat c
  obtain ⟨hnm, htr, hnil, hlim⟩ := ne_outputCode (b := servoColorByte 0xF0 c) (by omega)
  have hpos : servoByteOk (servoColorByte 0xF0 c) = false := by
    rw [servoByteOk, Bool.and_eq_false_iff]
    exact .inr (decide_eq_false (by omega))
  simp only [decode, byteCode, BitVec.ofNat_toNat, BitVec.setWidth_eq, decodeOutput, hbase, hnm, htr, hnil, hlim, hpos,
    servoColorOf_default, if_false, Bool.false_eq_true]

/-- Settles O17: the colour byte is the queue, and over the default base it is above the positions and below the
fixed codes. -/
theorem servoColorEnqueuesItsByte : Obligations.ServoColorEnqueuesItsByte := by
  intro s k c hp
  refine ⟨servoColorByte s.cfg.servoColorBase c, ?_, fun hbase => ?_, enqueue_idle k _ hp⟩
  · rw [BitVec.ofNat_toNat]
    rfl
  · have hbyte := servoColorByte_default_toNat c
    have hdecode := decode_servoColorByte hbase c
    rw [hbase]
    exact ⟨hbyte, by omega, by omega, hdecode⟩

/-- Bit 6 tells the two bytes of an LED update apart (R66). -/
theorem ledBytes_marker (red green blue fade : BitVec 3) :
    (ledFirstByte green red).getLsbD 6 = false ∧ (ledSecondByte fade blue).getLsbD 6 = true := by
  constructor
  · revert green red
    decide
  · revert fade blue
    decide

/-- Settles O18: the two bytes of an LED update are the queue. -/
theorem ledColorEnqueuesItsPair : Obligations.LedColorEnqueuesItsPair := by
  intro s k red green blue fade hp
  obtain ⟨hfirst, hsecond⟩ := ledBytes_marker red green blue fade
  exact ⟨_, _, ledFirstByte_toNat green red, ledSecondByte_toNat fade blue, hfirst, hsecond, enqueue_idle k _ hp⟩

/-! ### Queries (R185 to R188) -/

/-- Writing back what a slot holds changes nothing. -/
theorem onSlot_eq_self {k : SlotIx} {f : Slot → Slot} {s : State} (h : f (s.slot k) = s.slot k) : onSlot k f s = s := by
  rw [onSlot, putSlot, h, State.slot, Quad.set_get]

/-- What a query does on a slot that exists, with no cycle in progress (R71). -/
theorem query_idle {s : State} (k : SlotIx) (a : Slot → Byte) (f : Slot → Slot) (hp : s.phase = .idle) :
    query k.val a f s = .next (onSlot k f (respond (.byte (a (s.slot k))) s)) := by
  rw [query, asHost_idle hp, withSlot_val]

/-- A query that leaves the slot as it is only answers. -/
theorem query_idle_of_fixed {s : State} {k : SlotIx} (a : Slot → Byte) {f : Slot → Slot} (hp : s.phase = .idle)
    (hf : f (s.slot k) = s.slot k) : query k.val a f s = .next (respond (.byte (a (s.slot k))) s) := by
  rw [query_idle k a f hp, onSlot_eq_self (by rw [slot_respond, hf])]

/-- Settles O19: each of these queries leaves its slot as it is. -/
theorem queriesAnswerAndChangeNothing : Obligations.QueriesAnswerAndChangeNothing := by
  intro s k hp
  have hquery (a : Slot → Byte) : query k.val a id s = .next (respond (.byte (a (s.slot k))) s) :=
    query_idle_of_fixed a hp rfl
  refine ⟨(hquery connectedByte).trans ?_, (hquery fun sl => typeByte sl.mtype).trans ?_, hquery Slot.lastIn⟩
  · rw [connectedByte]
    cases (s.slot k).conn <;> rfl
  · cases (s.slot k).mtype <;> rfl

/-- Settles O20: the first read clears the flag, so that the second answers 0 and finds nothing to clear. -/
theorem justConnectedIsReadOnce : Obligations.JustConnectedIsReadOnce := by
  intro s k hp t
  have hslot : t.slot k = clearJustConn (s.slot k) := Quad.get_set_same ..
  have hcleared : clearJustConn (t.slot k) = t.slot k := by rw [hslot]; rfl
  have hsecond := query_idle_of_fixed (s := t) (fun sl => boolByte sl.justConn) hp hcleared
  have hflag : boolByte (t.slot k).justConn = 0x00 := by rw [hslot]; rfl
  rw [hflag] at hsecond
  exact ⟨query_idle k (fun sl => boolByte sl.justConn) clearJustConn hp, hsecond⟩

/-! ### What no host operation but `UPDATE` touches (R18, R189, R210) -/

/-- The fields of a slot that belong to the engine stay: all but the queue and `justConn` (R18). -/
def KeepsEngineFields (f : Slot → Slot) : Prop :=
  ∀ sl, (f sl).conn = sl.conn ∧ (f sl).mtype = sl.mtype ∧ (f sl).lastIn = sl.lastIn ∧ (f sl).cached = sl.cached

theorem keepsEngineFields_setPend (q : List Byte) : KeepsEngineFields (setPend q) := fun _ => ⟨rfl, rfl, rfl, rfl⟩

theorem keepsEngineFields_clearJustConn : KeepsEngineFields clearJustConn := fun _ => ⟨rfl, rfl, rfl, rfl⟩

theorem keepsEngineFields_id : KeepsEngineFields id := fun _ => ⟨rfl, rfl, rfl, rfl⟩

/-- The next state is a response and a write to one slot that keeps the engine's fields of it. -/
def HostEffect (s t : State) : Prop :=
  ∃ (r : Response) (k : SlotIx) (f : Slot → Slot), KeepsEngineFields f ∧ t = onSlot k f (respond r s)

theorem enqueue_hostEffect {k : Nat} {q : List Byte} {s t : State} (h : enqueue k q s = .next t) : HostEffect s t := by
  obtain ⟨-, j, -, rfl⟩ := enqueue_next h
  exact ⟨_, j, _, keepsEngineFields_setPend q, rfl⟩

theorem query_hostEffect {k : Nat} {a : Slot → Byte} {f : Slot → Slot} {s t : State} (hf : KeepsEngineFields f)
    (h : query k a f s = .next t) : HostEffect s t := by
  obtain ⟨-, j, -, rfl⟩ := query_next h
  exact ⟨_, j, f, hf, rfl⟩

/-- A reserved word writes no slot, which is to write slot 0 back as it is (R72 e). -/
theorem ignoreReserved_hostEffect {s t : State} (h : ignoreReserved s = .next t) : HostEffect s t := by
  obtain ⟨-, rfl⟩ := ignoreReserved_next h
  exact ⟨_, 0, id, keepsEngineFields_id, (onSlot_eq_self rfl).symm⟩

/-- Everything a host operation other than `UPDATE` can do, when it answers. -/
theorem exec_hostEffect {i : Instr} {s t : State} (hi : i.isHost = true) (hu : i ≠ .update)
    (h : exec i s = .next t) : HostEffect s t := by
  match i, hi, h with
  | .update, _, _ => exact absurd rfl hu
  | .servoPos _ _, _, h => exact enqueue_hostEffect (withAngle_next (asHost_next h))
  | .setPending _ _ _, _, h | .servoLim _, _, h | .servoColor _ _, _, h | .ledColor _ _ _ _ _, _, h =>
    exact enqueue_hostEffect h
  | .getJustConnected k, _, (h : execGetJustConnected k s = .next t) =>
    exact query_hostEffect keepsEngineFields_clearJustConn h
  | .getConnected k, _, (h : execGetConnected k s = .next t)
  | .getType k, _, (h : execGetType k s = .next t)
  | .getInput k, _, (h : execGetInput k s = .next t) => exact query_hostEffect keepsEngineFields_id h
  | .reservedOp0, _, h | .reservedOp7, _, h | .reservedOp8, _, h | .reservedOp9, _, h | .reservedOpA, _, h
  | .reservedOpB, _, h | .reservedOpC, _, h | .reservedOpD, _, h | .reservedOpE, _, h | .reservedOpF, _, h
  | .reservedZeroBit, _, h => exact ignoreReserved_hostEffect h

/-- A write to one slot that keeps the engine's fields of it keeps those of every slot. -/
theorem slot_onSlot_engineFields {k : SlotIx} {f : Slot → Slot} (hf : KeepsEngineFields f) (s : State) (j : SlotIx) :
    ((onSlot k f s).slot j).conn = (s.slot j).conn ∧ ((onSlot k f s).slot j).mtype = (s.slot j).mtype ∧
      ((onSlot k f s).slot j).lastIn = (s.slot j).lastIn ∧ ((onSlot k f s).slot j).cached = (s.slot j).cached := by
  rw [slot_onSlot]
  split
  · next h =>
    subst h
    exact hf _
  · exact ⟨rfl, rfl, rfl, rfl⟩

/-- Settles O23: a response and a write to one slot's queue or `justConn` is all such an operation does. -/
theorem hostOperationsLeaveTheEngineAlone : Obligations.HostOperationsLeaveTheEngineAlone := by
  intro s t i hi hu h
  obtain ⟨r, k, f, hf, rfl⟩ := exec_hostEffect hi hu h
  exact ⟨rfl, rfl, rfl, rfl, rfl, rfl, rfl, rfl, rfl, rfl, slot_onSlot_engineFields hf (respond r s)⟩

end Sys2Proof.Machine
end

section
/-! Proofs of the statements about refusals and the absence of exceptions (`60_exceptions.md`): which operations are
refused and why, and that no input from the host stops the machine. -/

namespace Sys2Proof.Machine

/-! ### Refusals (R203) -/

/-- Every host operation waits for its turn before anything else (R44, R203 `Busy`). -/
theorem exec_host_asHost {i : Instr} (hi : i.isHost = true) (s : State) : ∃ r, exec i s = asHost s r := by
  match i, hi with
  | .update, _ | .servoPos _ _, _
  | .setPending _ _ _, _ | .servoLim _, _ | .servoColor _ _, _ | .ledColor _ _ _ _ _, _
  | .getConnected _, _ | .getJustConnected _, _ | .getType _, _ | .getInput _, _
  | .reservedOp0, _ | .reservedOp7, _ | .reservedOp8, _ | .reservedOp9, _ | .reservedOpA, _ | .reservedOpB, _
  | .reservedOpC, _ | .reservedOpD, _ | .reservedOpE, _ | .reservedOpF, _ | .reservedZeroBit, _ => exact ⟨_, rfl⟩

theorem exec_host_busy {s : State} {i : Instr} (hi : i.isHost = true) (hp : s.phase ≠ .idle) :
    exec i s = .refused .busy := by
  obtain ⟨r, hr⟩ := exec_host_asHost hi s
  rw [hr, asHost_busy hp]

theorem withAngle_bad {deg : Nat} (h : 180 < deg) (r : Result) : withAngle deg r = .refused .angleOutOfRange := by
  have hbad : angleOk deg = false := decide_eq_false (Nat.not_le.mpr h)
  rw [withAngle, hbad, if_neg Bool.false_ne_true]

theorem withAngle_of_le {deg : Nat} (h : deg ≤ 180) (r : Result) : withAngle deg r = r :=
  if_pos (decide_eq_true h)

theorem withQueue_bad {q : List Byte} (h : q.length = 0 ∨ 2 < q.length) (r : Result) :
    withQueue q r = .refused .badQueueLength := by
  have hbad : ¬ queueOk q = true := by
    rw [queueOk, Bool.and_eq_true, decide_eq_true_eq, decide_eq_true_eq, qCap]
    omega
  rw [withQueue, if_neg hbad]

/-- A setter on a slot above 3, with no cycle in progress. -/
theorem enqueue_badSlot {s : State} {k : Nat} (hk : 4 ≤ k) (hp : s.phase = .idle) (q : List Byte) :
    enqueue k q s = .refused .badSlot := by
  rw [enqueue, asHost_idle hp, withSlot_bad hk]

/-- A query of a slot above 3, with no cycle in progress. -/
theorem query_badSlot {s : State} {k : Nat} (hk : 4 ≤ k) (hp : s.phase = .idle) (a : Slot → Byte)
    (f : Slot → Slot) : query k a f s = .refused .badSlot := by
  rw [query, asHost_idle hp, withSlot_bad hk]

theorem exec_servoPos_badAngle {s : State} {deg : Nat} (k : Nat) (hp : s.phase = .idle) (hdeg : 180 < deg) :
    exec (.servoPos k deg) s = .refused .angleOutOfRange := by
  rw [exec, execServoPos, asHost_idle hp, withAngle_bad hdeg]

/-- The slot is looked at after the angle (R181). -/
theorem exec_servoPos_badSlot {s : State} {k deg : Nat} (hk : 4 ≤ k) (hp : s.phase = .idle) (hdeg : deg ≤ 180) :
    exec (.servoPos k deg) s = .refused .badSlot := by
  rw [exec, execServoPos, asHost_idle hp, withAngle_of_le hdeg, enqueue_badSlot hk hp]

theorem exec_setPendingOutput_badQueue {q : List Byte} (hq : q.length = 0 ∨ 2 < q.length) (s : State) (k : Nat) :
    exec (.setPendingOutput k q) s = .refused .badQueueLength :=
  withQueue_bad hq _

/-- The slot is looked at after the queue (R120). -/
theorem exec_setPendingOutput_badSlot {k : Nat} {q : List Byte} (hk : 4 ≤ k) (hq : q.length = 1 ∨ q.length = 2)
    (s : State) : exec (.setPendingOutput k q) s = .refused .badSlot := by
  rw [exec, execSetPendingOutput, withQueue_of_length hq, withSlot_bad hk]

/-- Settles O22: the turn is asked for first, then the angle or the queue is looked at, and the slot last. -/
theorem refusalsOfMeaninglessOperands : Obligations.RefusalsOfMeaninglessOperands := by
  refine ⟨fun s i hi hp => exec_host_busy hi hp, fun s k deg hp hdeg => exec_servoPos_badAngle k hp hdeg,
    fun s k q hq => exec_setPendingOutput_badQueue hq s k, fun s k hk hp => ?_, fun s k hk => ?_⟩
  · have hset (q : List Byte) : enqueue k q s = .refused .badSlot := enqueue_badSlot hk hp q
    have hquery (a : Slot → Byte) (f : Slot → Slot) : query k a f s = .refused .badSlot := query_badSlot hk hp a f
    exact ⟨fun _ _ => hset _, hquery connectedByte id, hquery (fun sl => boolByte sl.justConn) clearJustConn,
      hquery (fun sl => typeByte sl.mtype) id, hquery Slot.lastIn id,
      fun deg hdeg => exec_servoPos_badSlot hk hp hdeg, hset _, fun _ => hset _, fun _ _ _ _ => hset _⟩
  · exact ⟨fun b => exec_setPendingOutput_badSlot hk (.inl rfl) s,
      fun a b => exec_setPendingOutput_badSlot hk (.inr rfl) s,
      by rw [exec, execNextOutputByte, withSlot_bad hk],
      fun b => by rw [exec, execRecordInput, withSlot_bad hk],
      fun sent rx => by rw [exec, execDsmStep, withSlot_bad hk]⟩

/-! ### What an idle machine does not refuse (R200) -/

theorem enqueue_answers {s : State} {k : Nat} (hk : slotOk k = true) (hp : s.phase = .idle) (q : List Byte) :
    ∃ t, enqueue k q s = .next t :=
  ⟨_, enqueue_idle ⟨k, of_decide_eq_true hk⟩ q hp⟩

theorem query_answers {s : State} {k : Nat} (hk : slotOk k = true) (hp : s.phase = .idle) (a : Slot → Byte)
    (f : Slot → Slot) : ∃ t, query k a f s = .next t :=
  ⟨_, query_idle ⟨k, of_decide_eq_true hk⟩ a f hp⟩

/-- An idle machine refuses no host operation but for its operands (R203). -/
theorem exec_host_answers {s : State} {i : Instr} (hi : i.isHost = true) (hwf : i.wellFormed = true)
    (hp : s.phase = .idle) : ∃ t, exec i s = .next t := by
  match i, hi, hwf with
  | .update, _, _ => exact ⟨_, exec_update hp⟩
  | .servoPos k deg, _, hwf =>
    obtain ⟨hdeg, hk⟩ : angleOk deg = true ∧ slotOk k = true := Bool.and_eq_true_iff.mp hwf
    exact ⟨_, exec_servoPos ⟨k, of_decide_eq_true hk⟩ (of_decide_eq_true hdeg) hp⟩
  | .setPending _ _ _, _, hk | .servoLim _, _, hk | .servoColor _ _, _, hk | .ledColor _ _ _ _ _, _, hk =>
    exact enqueue_answers hk hp _
  | .getConnected _, _, hk => exact query_answers hk hp connectedByte id
  | .getJustConnected _, _, hk => exact query_answers hk hp (fun sl => boolByte sl.justConn) clearJustConn
  | .getType _, _, hk => exact query_answers hk hp (fun sl => typeByte sl.mtype) id
  | .getInput _, _, hk => exact query_answers hk hp Slot.lastIn id
  | .reservedOp0, _, _ | .reservedOp7, _, _ | .reservedOp8, _, _ | .reservedOp9, _, _ | .reservedOpA, _, _
  | .reservedOpB, _, _ | .reservedOpC, _, _ | .reservedOpD, _, _ | .reservedOpE, _, _ | .reservedOpF, _, _
  | .reservedZeroBit, _, _ => exact ⟨_, asHost_idle hp _⟩

/-! ### No input from the host stops the machine (R200, R72 e) -/

/-- A row of the opcode map has a meaning when its slot exists. -/
theorem hostRow_wellFormed {k : Nat} (hk : slotOk k = true) (op : Nat) (two : Bool) (b1 b0 : Byte) :
    (hostRow op k two b1 b0).wellFormed = true := by
  unfold hostRow
  split <;> simp only [Instr.wellFormed, hk]

/-- The two bits of a command word's slot field name a slot, and no command word writes an angle (R70, R203). -/
theorem decodeHost_wellFormed (w : BitVec 24) : (decodeHost w).wellFormed = true := by
  have hslot : slotOk (w.extractLsb' 18 2).toNat = true := decide_eq_true (w.extractLsb' 18 2).isLt
  rw [decodeHost_eq]
  split
  · rfl
  · exact hostRow_wellFormed hslot _ _ _ _

/-- An idle machine goes on with every command word, the reserved ones too (R72 e). -/
theorem step_hostWord {s : State} {c : Code} {rest : List Input} (hp : s.phase = .idle) (hc : c.fmt = .host)
    (hin : s.inputs = .word c :: rest) : ∃ t, step s = .next t := by
  have hdec : decode s.cfg c = .ok (decodeHost (BitVec.ofNat 24 c.bits)) := by simp only [decode, hc]
  rw [stepRunsTheDecodedInstruction s c rest _ hp hin hdec]
  exact exec_host_answers (decodeHost_isHost _) (decodeHost_wellFormed _) hp

/-- Settles O10: a reset is taken at once, a busy machine ticks, and an idle one takes its input: a command word is
a host operation whose operands have a meaning, and a cycle start begins a cycle. -/
theorem hostInputsNeverStopTheMachine : Obligations.HostInputsNeverStopTheMachine := by
  intro s hhost
  match hin : s.inputs with
  | [] => exact ⟨_, step_no_input hin⟩
  | .rst :: rest => exact ⟨resetMachine { s with inputs := rest }, by simp only [step, hin, exec, execReset]⟩
  | .updateStart :: rest =>
    exact ⟨if s.busy then tick s else beginCycle { s with inputs := rest }, by simp only [step, hin]⟩
  | .word c :: rest =>
    by_cases hp : s.phase = .idle
    · obtain ⟨hc, -⟩ := hhost.head_tail hin
      exact step_hostWord hp (beq_iff_eq.mp hc) hin
    · exact ⟨_, step_busy hp (by simp [hin])⟩

end Sys2Proof.Machine
end

section
/-! Proofs of the statements about reset and the hazards of the line (`70_reset_and_hazards.md`): what a silent line
does to a TypeKnown slot, and the reset of the whole block. -/

namespace Sys2Proof.Machine

/-! ### A silent line (R241) -/

/-- Widths of which none exceeds the threshold spell 0. -/
theorem numberOfWidths_of_short {thresh : Nat} {ws : List Nat} (h : ∀ d ∈ ws, d ≤ thresh) :
    numberOfWidths thresh ws = 0 := by
  induction ws with
  | nil => rfl
  | cons d ds ih =>
    obtain ⟨hd, hds⟩ := List.forall_mem_cons.mp h
    rw [numberOfWidths, if_neg (Nat.not_lt.mpr hd), ih hds]

/-- On a silent line the byte received is 0x00, which is the disconnect code (R241). -/
theorem reply_of_silent {s : State} (h : ∀ d ∈ s.answers, d ≤ s.cfg.tThresh) : s.reply = 0x00 := by
  rw [State.reply, byteOfWidths, numberOfWidths_of_short h]
  rfl

/-- The disconnect code puts a TypeKnown slot back to its value after reset, and the parameter's record adds
nothing, since the byte recorded is the reset value of the input byte (R145, R206). -/
theorem discoverySlot_disconnect {sl : Slot} (all : Bool) (sent : Byte) (h : sl.conn = .typeKnown) :
    discoverySlot all sent 0x00 sl = Slot.initial := by
  rw [discoverySlot, discoveryArm_typeKnown sent 0x00 h, if_pos rfl]
  cases all <;> rfl

/-- Settles O48: the byte a silent line gives is the disconnect code, and the pop before it leaves the slot
TypeKnown. -/
theorem silentLineDisconnectsTheActiveSlot : Obligations.SilentLineDisconnectsTheActiveSlot := by
  intro s hp hsilent hc
  have hreply : s.reply = 0x00 := reply_of_silent hsilent
  have hknown : (popOutput (s.slot s.cursor)).2.conn = .typeKnown := (popOutput_module _).1.trans hc
  refine ⟨_, exec_update hp, ?_, ?_⟩
  · rw [respond_rx, updateCycle_eq, hreply]
  · rw [slot_respond, updateCycle_slot, if_pos rfl, hreply, discoverySlot_disconnect _ _ hknown]
    rfl

/-! ### Reset (R28, R230) -/

theorem exec_reset (s : State) : exec .reset s = .next (resetMachine s) := rfl

/-- The reset signal is looked at before the phase: it resets a busy machine too (R230). -/
theorem step_rst {s : State} {rest : List Input} (hin : s.inputs = .rst :: rest) :
    step s = .next (resetMachine { s with inputs := rest }) := by
  simp only [step, hin, exec_reset]

/-- Settles O13: a reset reads nothing of the block's own state, and the signal runs it on the inputs behind it. -/
theorem resetOverridesEverything : Obligations.ResetOverridesEverything :=
  fun s => ⟨exec_reset s, fun _ => step_rst rfl⟩

end Sys2Proof.Machine
end
